-- ==== Sys2Proof/Word.lean ====
section
/-! DEFINITION. The plain words of the model: bytes, station numbers, the pair that writes a hut time,
and the levels of the strap pins. -/

namespace Sys2Proof

/-- One byte of a payload or a record; bit 7 is sent first (Section 12). -/
abbrev Byte := BitVec 8

/-- A station field as it stands in a packet header, 0 to 31; stations are numbered 1 to 30 (R23). -/
abbrev Station := BitVec 5

/-- A hut time: the seconds count, which wraps at 2^32, and the ticks within the second (R39).
The tick count lies from 0 to 9,999,999; `HutTime.wf` in Safety.lean says so. -/
structure HutTime where
  sec  : BitVec 32
  tick : Nat
deriving DecidableEq, Repr

/-- The levels read at the strap pins (Figure 11-1): five station pins, two role pins, two rate pins.
A pin held low reads 0 and a pin left open or held high reads 1 (R162). -/
structure StrapPins where
  station : Station
  role    : BitVec 2
  rate    : BitVec 2
deriving DecidableEq, Repr

end Sys2Proof
end

