-- ==== Sys2Proof/Syntax.lean ====
section
/-! DEFINITION. The commands of the node: one constructor of `Instr` for each row of
spec/opcode_table.json. A command is one event, whole and indivisible
(spec/95_what_each_step_holds.md). The table gives the rows no operands; the operands here are what
the event's own rule needs from outside the node. -/

namespace Sys2Proof

/-- The two disturbance inputs (R30): input 0 drives DOOR, input 1 drives HEATER (Figure 2-4). -/
inductive DistInput
  | door
  | heater
deriving DecidableEq, Repr

/-- The four ways in which a packet can fail to be good (R11). -/
inductive ReceiveFaultKind
  /-- the header names class 7 -/
  | classSeven
  /-- the payload length is above 48 -/
  | tooLong
  /-- the check read differs from the receiver's own register -/
  | checkMismatch
  /-- 8 consecutive fully recessive bit times fell where clock pulses are expected -/
  | cutShort
deriving DecidableEq, Repr

/-- A good ASK packet as the line hands it over: the source station of its header, and the target, the
tag and the operand bytes of its payload (Section 12, "ASK operands"). The question code between tag
and operands is the command's own. -/
structure Ask where
  source   : Station
  target   : Byte
  tag      : Byte
  operands : List Byte
deriving DecidableEq, Repr

/-- The two moments of a recovery of the supply (R164; log entry 16). -/
inductive SupplyMoment
  /-- the supply rises above the retention level -/
  | rises
  /-- it has stayed above for 1,000,000 oscillator ticks; with the strap levels at the restart's completion -/
  | stayed (pins : StrapPins)
deriving DecidableEq, Repr

/-- The commands. Each constructor names its row of the table and the rule the row names. -/
inductive Instr
  /-- LINE_IDLE (R3) -/
  | lineIdle
  /-- SEND_BEGIN (R7) -/
  | sendBegin
  /-- CONTEST_LOST (R8) -/
  | contestLost
  /-- BIT_FAULT (R9): `afterContest` says whether the wrong bit lay after the contest field (Figure 1-4) -/
  | bitFault (afterContest : Bool)
  /-- SEND_END (R10): `acked` is true when the first acknowledgment bit was read dominant -/
  | sendEnd (acked : Bool)
  /-- RECEIVE_FAULT (R11) -/
  | receiveFault (kind : ReceiveFaultKind)
  /-- OWN_NUMBER_PACKET (R13) -/
  | ownNumberPacket
  /-- JOINING_COUNT_EXPIRY (R15) -/
  | joiningCountExpiry
  /-- PRESENCE_EXPIRY (R25): the station whose silence has run out -/
  | presenceExpiry (station : Station)
  /-- DISTURBANCE_INPUT_CHANGE (R30): the input and the level it now holds (`active` is low) -/
  | disturbanceInputChange (input : DistInput) (active : Bool)
  /-- DEBOUNCE_EXPIRY (R30) -/
  | debounceExpiry (input : DistInput)
  /-- ROLL_OFFER (R33) -/
  | rollOffer
  /-- FLAG_RECEIVED (R34): source station and payload bytes of the good packet -/
  | flagReceived (source : Station) (payload : List Byte)
  /-- ROLL_RECEIVED (R28) -/
  | rollReceived (source : Station) (payload : List Byte)
  /-- MARK_OFFER (R46) -/
  | markOffer
  /-- MARK_RECEIVED (R49) -/
  | markReceived (source : Station) (payload : List Byte)
  /-- LOCK_CHANGE (R51): the level LOCK now holds (`active` is low) -/
  | lockChange (active : Bool)
  /-- PPS_AGE_EXPIRY (R51) -/
  | ppsAgeExpiry
  /-- PPS_EDGE (R52) -/
  | ppsEdge
  /-- ROUND_END (R67) -/
  | roundEnd
  /-- SYNC_EDGE (R71) -/
  | syncEdge
  /-- CONVERSION_SET_COMPLETE (R73): the serial clock edge that brings the set's last bit -/
  | conversionSetComplete (bit : Bool)
  /-- BASE_EPOCH (R99) -/
  | baseEpoch
  /-- FAST_EPOCH (R99) -/
  | fastEpoch
  /-- HOLD_EXPIRY (R107) -/
  | holdExpiry
  /-- PROMOTION (R95) -/
  | promotion
  /-- TEMP_RECEIVED (R125) -/
  | tempReceived (source : Station) (payload : List Byte)
  /-- OBS_RECEIVED (R126) -/
  | obsReceived (source : Station) (payload : List Byte)
  /-- QUERY_CONSIDERATION (R129) -/
  | queryConsideration
  /-- QUERY_TIMEOUT (R130): the tag of the pending query whose time has run out -/
  | queryTimeout (tag : BitVec 4)
  /-- REPLY_RECEIVED (R131) -/
  | replyReceived (source : Station) (payload : List Byte)
  /-- TEMP_PUBLICATION (R134) -/
  | tempPublication
  /-- STATUS (R153) -/
  | status (ask : Ask)
  /-- READ_WINDOW (R143) -/
  | readWindow (ask : Ask)
  /-- CONSUME (R142) -/
  | consume (ask : Ask)
  /-- TABLE_READ (R88) -/
  | tableRead (ask : Ask)
  /-- TABLE_WRITE (R89) -/
  | tableWrite (ask : Ask)
  /-- TABLE_COMMIT (R91) -/
  | tableCommit (ask : Ask)
  /-- TABLE_DISCARD (R93) -/
  | tableDiscard (ask : Ask)
  /-- TEMP_NOW (R133) -/
  | tempNow (ask : Ask)
  /-- FENCE (R155) -/
  | fence (ask : Ask)
  /-- CLEAR_CONDITIONS (R158) -/
  | clearConditions (ask : Ask)
  /-- RESTART_WARM (R159): a RESTART whose operand is not the kind COLD, and the strap levels at the
  restart's completion -/
  | restartWarm (ask : Ask) (pins : StrapPins)
  /-- RESTART_COLD (R159): a RESTART whose operand is the kind COLD -/
  | restartCold (ask : Ask) (pins : StrapPins)
  /-- UNKNOWN_QUESTION (R151): an ASK whose `code` names no question -/
  | unknownQuestion (ask : Ask) (code : Byte)
  /-- SUPPLY_FALL (R164) -/
  | supplyFall
  /-- SUPPLY_RECOVERY (R164): the supply's rise above the retention level, or the end of the 100 ms -/
  | supplyRecovery (moment : SupplyMoment)
  /-- RESET_ASSERTED (R165) -/
  | resetAsserted
  /-- RESET_RELEASED (R165): the strap levels at the restart's completion -/
  | resetReleased (pins : StrapPins)
  /-- OSCILLATOR_EDGE (R41) -/
  | oscillatorEdge
  /-- SERIAL_CLOCK_EDGE (R71): the data bit at the edge -/
  | serialClockEdge (bit : Bool)
  /-- ASK_DROPPED (R150): source station and whole payload of the good ASK -/
  | askDropped (source : Station) (payload : List Byte)
  /-- DOMINANT_LEVEL_WHILE_NOT_IDLE (R3) -/
  | dominantLevelWhileNotIdle
deriving DecidableEq, Repr

end Sys2Proof
end

