-- ==== Sys2Proof/Decode.lean ====
section
/-! DEFINITION. The commands that the table's bits spell. No row of spec/opcode_table.json gives bits:
the node's commands are packets, pin edges and expiries, and no word stands for one. -/

namespace Sys2Proof

/-- The command that a word spells by the table's bits: none, since no row has any. -/
def decodeTableWord (_nbits _w : Nat) : Option Instr := none

end Sys2Proof
end

