-- ==== Sys2Proof/Config.lean ====
section
/-! DEFINITION. What the part itself does not fix: the strap levels that `State.reset` was restarted
under. A board's wiring chooses them (R162); the value here is log entry 11's. The specification
leaves no result of an operation open, so this file holds no free value. -/

namespace Sys2Proof.Config

/-- DESIGN CHOICE (log entry 11): station 3, role V, rate strap 3, the node of the manual's worked
examples. The part's own pull-ups would read station 31, which is STRAP FAULT (R162). -/
def resetStraps : StrapPins := ⟨3#5, 0#2, 3#2⟩

end Sys2Proof.Config
end

