-- ==== Sys2Proof/Machine/State.lean ====
section
/-! DEFINITION. The state of the node as plain data: one structure per functional block (Figure 0-2),
the straps and pins, and the queue of waiting commands. `State.reset` is the state right after a
power-up restart has completed. -/

namespace Sys2Proof.Machine

/-! ## Names -/

/-- The four roles (Figure 0-1): V, S, T and C. -/
inductive Role
  | vector
  | scalar
  | thermal
  | clock
deriving DecidableEq, Repr

/-- The standings of the line interface (R15, R22). -/
inductive Standing
  | joining
  | normal
  | restrained
  | withdrawn
  | strapFault
deriving DecidableEq, Repr

/-- The seven packet classes (Figure 1-3). -/
inductive PacketClass
  | mark
  | flag
  | reply
  | ask
  | obs
  | temp
  | roll
deriving DecidableEq, Repr

/-- The time state (R43). -/
inductive TimeState
  | unset
  | set
deriving DecidableEq, Repr

/-- The presence states of a peer (Figure 2-3). -/
inductive Presence
  | unknown
  | present
  | absent
deriving DecidableEq, Repr

/-- The two kinds of restart (R166). -/
inductive RestartKind
  | warm
  | cold
deriving DecidableEq, Repr

/-- The reply statuses (Figure 10-2). -/
inductive Status
  | done
  | busy
  | stale
  | range
  | empty
  | tooOld
  | refused
  | unknown
deriving DecidableEq, Repr

/-- The pending state of the correction store (R81). -/
inductive PendingState
  | none
  | isOpen
  | scheduled
deriving DecidableEq, Repr

/-- The cadence of epoch assembly (R99). -/
inductive Cadence
  | base
  | storm
deriving DecidableEq, Repr

/-- The kind of an epoch record (R136). -/
inductive EpochKind
  | base
  | fast
deriving DecidableEq, Repr

/-- The cause at which an entry closed (R107). -/
inductive CloseCause
  | complete
  | hold
  | step
deriving DecidableEq, Repr

/-- Where a channel's temperature comes from (Figure 6-3). -/
inductive SourceKind
  | none
  | localTS
  | localTE
  | peer
deriving DecidableEq, Repr

/-! ## Small records -/

/-- A set of the four flag wires (R29). -/
structure WireSet where
  storm   : Bool
  door    : Bool
  heater  : Bool
  service : Bool
deriving DecidableEq, Repr

/-- The wire set that asserts nothing. -/
def WireSet.clear : WireSet := ⟨false, false, false, false⟩

/-- The five sticky conditions (Figure 10-4). -/
structure Conditions where
  duplicate    : Bool
  partialSet   : Bool
  lapped       : Bool
  stepped      : Bool
  queryTimeout : Bool
deriving DecidableEq, Repr

/-- All five conditions clear (R157). -/
def Conditions.clear : Conditions := ⟨false, false, false, false, false⟩

/-- The quality set of a record (Figure 7-6). Bit i of `gap` and of `sat` is the member of slot i + 1. -/
structure Quality where
  gap          : BitVec 4
  sat          : BitVec 4
  tempStale    : Bool
  tempMissing  : Bool
  uncorrected  : Bool
  step         : Bool
  unset        : Bool
  dfSat        : Bool
deriving DecidableEq, Repr

/-- A mark capture: a MARK's sequence number and the hut time of its start edge (R23, R48). -/
structure MarkCapture where
  seq  : BitVec 8
  time : HutTime
deriving DecidableEq, Repr

/-- An offset sample: the signed tick count d and the grade reported with it (R50). -/
structure OffsetSample where
  offset : Int
  grade  : Nat
deriving DecidableEq, Repr

/-- The straps as sampled at the last restart (R162). -/
structure Straps where
  station : Station
  role    : Role
  rate    : BitVec 2
deriving DecidableEq, Repr

/-! ## Records of the ring (Section 9) -/

/-- The content of an epoch record (Figure 9-1) with the close cause and bracket span of R171. -/
structure EpochContent where
  kind    : EpochKind
  instant : HutTime
  edition : BitVec 16
  wires   : WireSet
  grade   : Nat
  quality : Quality
  slots   : List (Option Int)
  deltaF  : Option Int
  cause   : CloseCause
  span    : Nat
deriving DecidableEq, Repr

/-- The value a note carries, by its type (Figure 9-2). -/
inductive NoteValue
  | step (amount : Int)
  | promote (edition : BitVec 16)
  | standing (standing : Standing) (score : Nat)
  | restart (kind : RestartKind)
deriving DecidableEq, Repr

/-- What a record carries: an epoch record, or a note with the hut time of its writing (R137). -/
inductive RecordContent
  | epoch (content : EpochContent)
  | note (time : HutTime) (value : NoteValue)
deriving DecidableEq, Repr

/-- A record of the ring (Figure 12-8): role and station of the last restart, and the sequence number
under which it was written (R171). -/
structure Record where
  role    : Role
  station : Station
  seq     : BitVec 16
  content : RecordContent
deriving DecidableEq, Repr

/-! ## Correction sets (Section 6) -/

/-- A point: temperature T_k, scale s_k in ppm, offset o_k in pT (Figure 6-3). -/
structure Point where
  temp   : Int
  scale  : Int
  offset : Int
deriving DecidableEq, Repr

/-- The channel base of a field channel (Figure 6-3). -/
structure ChannelBase where
  gain       : Nat
  source     : SourceKind
  station    : Station
  probe      : Nat
  pointCount : Nat
deriving DecidableEq, Repr

/-- A field channel: its base and its eight point slots (R83). -/
structure Channel where
  base   : ChannelBase
  points : List Point
deriving DecidableEq, Repr

/-- The header of a set (Figure 6-2). The scalar source station is 0 for none. -/
structure Header where
  stormThreshold : Nat
  scalarSource   : Station
  ageLimit       : Nat
deriving DecidableEq, Repr

/-- A correction set: header and one channel for each field channel of the role (R82, R83). -/
structure CorrectionSet where
  header   : Header
  channels : List Channel
deriving DecidableEq, Repr

/-- The pending set with its edition; `scheduled` false is OPEN and true is SCHEDULED (R81). -/
structure PendingSet where
  content   : CorrectionSet
  edition   : BitVec 16
  scheduled : Bool
deriving DecidableEq, Repr

/-- The outgoing set with its edition (R81). -/
structure OutgoingSet where
  content : CorrectionSet
  edition : BitVec 16
deriving DecidableEq, Repr

/-- The address of a part of a set (Figure 6-5); channels and slots count from 1. -/
inductive PartAddress
  | header
  | base (channel : Nat)
  | point (channel : Nat) (slot : Nat)
deriving DecidableEq, Repr

/-- The content of a part (Figure 12-6). -/
inductive PartContent
  | header (h : Header)
  | base (b : ChannelBase)
  | point (p : Point)
deriving DecidableEq, Repr

/-! ## Packets -/

/-- A MARK as it goes out (Figure 3-3). -/
structure MarkPacket where
  seq       : BitVec 8
  prev      : Option MarkCapture
  grade     : Nat
  unset     : Bool
  reference : Bool
deriving DecidableEq, Repr

/-- The fields a ROLL takes when it is placed in its slot (R33). -/
structure RollSummary where
  role       : Role
  standing   : Standing
  score      : Nat
  timeState  : TimeState
  grade      : Nat
  edition    : BitVec 16
  unconsumed : Nat
  kind       : RestartKind
deriving DecidableEq, Repr

/-- A TEMP: the role and the temperatures in list order, none where the channel has none (R134). -/
structure TempPacket where
  role  : Role
  temps : List (Option Int)
deriving DecidableEq, Repr

/-- The DONE reply of a FENCE (R155). -/
structure FenceReply where
  asker    : Station
  tag      : Byte
  time     : HutTime
  producer : BitVec 16
deriving DecidableEq, Repr

/-- What the OBS queue holds (R19): base epoch records and the fence reply. -/
inductive ObsPacket
  | record (r : Record)
  | fence (f : FenceReply)
deriving DecidableEq, Repr

/-- An own ASK; its question is TEMP NOW (R128, R129). -/
structure OwnAsk where
  target : Station
  tag    : BitVec 4
deriving DecidableEq, Repr

/-- The snapshot of a STATUS reply (Figure 10-3). -/
structure Snapshot where
  time           : HutTime
  timeState      : TimeState
  grade          : Nat
  locked         : Bool
  rateTrim       : Int
  lastCorrection : Int
  standing       : Standing
  score          : Nat
  activeEdition  : BitVec 16
  workingEdition : BitVec 16
  pendingState   : PendingState
  producer       : BitVec 16
  consumer       : BitVec 16
  conditions     : Conditions
  own            : WireSet
  lastKind       : RestartKind
deriving DecidableEq, Repr

/-- The three values that every TABLE reply carries (R86). -/
structure TableState where
  working : BitVec 16
  active  : BitVec 16
  pending : PendingState
deriving DecidableEq, Repr

/-- The body of a reply (Figure 12-7). -/
inductive ReplyBody
  | empty
  | status (s : Snapshot)
  | window (seq : BitVec 16) (last : Bool) (record : Record)
  | ring (producer : BitVec 16) (consumer : BitVec 16)
  | table (t : TableState)
  | part (t : TableState) (address : PartAddress) (content : PartContent)
  | commitFailure (t : TableState) (channel : Nat) (slot : Nat)
  | temps (list : List (Option Int))
  | conditions (c : Conditions)
deriving DecidableEq, Repr

/-- A REPLY (R152): asker station, tag and question code of the ASK, status, body. -/
structure Reply where
  asker    : Station
  tag      : Byte
  question : Byte
  status   : Status
  body     : ReplyBody
deriving DecidableEq, Repr

/-- A packet whose content is complete, as it is from its start bit (R33, R47). -/
inductive Packet
  | mark (m : MarkPacket)
  | flag (own : WireSet)
  | reply (r : Reply)
  | ask (a : OwnAsk)
  | obs (o : ObsPacket)
  | temp (t : TempPacket)
  | roll (summary : RollSummary) (own : WireSet)
deriving DecidableEq, Repr

/-! ## The line interface (Section 1) -/

/-- The seven places for packets waiting to be sent (Figure 1-11). -/
inductive Place
  | mark
  | flag
  | reply
  | ask
  | obs
  | temp
  | roll
deriving DecidableEq, Repr

/-- The packet in flight (R7): where it stands, its content, its start-edge capture (R12), whether a
newer packet has taken its slot meanwhile (R18), the cycle position it was chosen at (R21), and the
fields the LIF drives: header, payload bytes, check (R4, R6). -/
structure Send where
  place    : Place
  packet   : Packet
  capture  : Option HutTime
  replaced : Bool
  position : Option Nat
  header   : BitVec 14
  payload  : List Byte
  check    : BitVec 16
deriving DecidableEq, Repr

/-- What the LIF is doing on the line: waiting for the line to become idle (no packet being taken), on
an idle line, taking a packet (with its receive capture unless a step discarded it), or sending. -/
inductive LineActivity
  | waiting
  | idle
  | receiving (capture : Option HutTime)
  | sending (send : Send)
deriving DecidableEq, Repr

/-- The line interface. `quiet` and `joinCount` count oscillator ticks without a dominant level
(log entry 6); `ackDriven` is the model's own field (log entry 23), and so is `sendEnded`: a send ended in
success or acknowledgment absence, and no oscillator edge has come since (R150; log entry 31). -/
structure LineInterface where
  standing   : Standing
  score      : Nat
  activity   : LineActivity
  quiet      : Nat
  joinCount  : Nat
  markSlot   : Option (BitVec 8)
  flagSlot   : Option WireSet
  replyQueue : List Reply
  askQueue   : List OwnAsk
  obsQueue   : List ObsPacket
  tempSlot   : Option TempPacket
  rollSlot   : Option RollSummary
  cycle      : Nat
  ackDriven  : Bool
  sendEnded  : Bool
deriving DecidableEq, Repr

/-! ## The presence block (Section 2) -/

/-- A peer table entry (Figure 2-1). -/
structure Peer where
  presence  : Presence
  lastHeard : Option HutTime
  timeState : TimeState
  capture   : Option MarkCapture
  sample    : Option OffsetSample
  wires     : WireSet
deriving DecidableEq, Repr

/-- An entry after a restart (Figure 2-2). -/
def Peer.fresh : Peer := ⟨.unknown, none, .unset, none, none, .clear⟩

/-- The presence block. The entry of station n stands at position n - 1 of `peers`. -/
structure PresenceBlock where
  peers     : List Peer
  debounce0 : Nat
  debounce1 : Nat
  own       : WireSet
  wireOr    : WireSet
deriving DecidableEq, Repr

/-! ## The hut clock and the agreement engine (Sections 3 and 4) -/

/-- The hut clock (R39 to R53). -/
structure HutClock where
  time        : HutTime
  accumulator : Int
  rateTrim    : Int
  slew        : Int
  timeState   : TimeState
  grade       : Nat
  markSeq     : BitVec 8
  ownMark     : Option MarkCapture
  refLocked   : Bool
  ppsAge      : Nat
  ppsSamples  : List Int
deriving DecidableEq, Repr

/-- The agreement engine (R54). -/
structure Engine where
  roundBegin     : HutTime
  lastRoundEnd   : Option (BitVec 32)
  lastCorrection : Int
deriving DecidableEq, Repr

/-! ## The sample port (Section 5) -/

/-- A decoded field word (Figure 5-3): its value and condition; INVALID has no value. -/
inductive FieldWord
  | invalid
  | valid (value : Int)
  | fullScale (value : Int)
deriving DecidableEq, Repr

/-- A set in the sample history (Figure 5-4). -/
structure SampleSet where
  capture : HutTime
  fields  : List FieldWord
  temps   : List (Option Int)
deriving DecidableEq, Repr

/-- The open set (R71): capture, words completed so far in order, and the word in progress with the
number of its bits. -/
structure OpenSet where
  capture : HutTime
  words   : List (BitVec 24)
  bits    : Nat
  shift   : BitVec 24
deriving DecidableEq, Repr

/-- The sample port; `openSet` absent is AWAITING SYNC and present is ASSEMBLING (R71). -/
structure SamplePort where
  openSet   : Option OpenSet
  history   : List SampleSet
  lastTemps : List (Option Int)
deriving DecidableEq, Repr

/-! ## The correction store (Section 6) -/

/-- The correction store (R81). -/
structure CorrectionStore where
  active        : CorrectionSet
  activeEdition : BitVec 16
  loadedRole    : Role
  pendingSet    : Option PendingSet
  outgoing      : Option OutgoingSet
deriving DecidableEq, Repr

/-! ## The epoch assembler (Section 7) -/

/-- A bracket (R105): set a, absent where the history held none, and set b. -/
structure Bracket where
  before : Option SampleSet
  after  : SampleSet
deriving DecidableEq, Repr

/-- A scalar contribution (R106): its epoch instant and F_s, or F absent. -/
structure ScalarObs where
  instant : HutTime
  field   : Option Int
deriving DecidableEq, Repr

/-- What the close of an entry computes (R107, R117, R171). -/
structure Closed where
  cause   : CloseCause
  slots   : List (Option Int)
  deltaF  : Option Int
  quality : Quality
  span    : Nat
deriving DecidableEq, Repr

/-- An epoch entry (Figure 7-3); it is OPEN while `closed` is absent. -/
structure Entry where
  instant      : HutTime
  kind         : EpochKind
  edition      : BitVec 16
  wires        : WireSet
  grade        : Nat
  timeState    : TimeState
  step         : Bool
  scalarSource : Option Station
  bracket      : Option Bracket
  contribution : Option ScalarObs
  closed       : Option Closed
deriving DecidableEq, Repr

/-- The storm detector (R118). -/
structure StormDetector where
  asserted  : Bool
  onset     : Nat
  quiet     : Nat
  reference : Option (List Int)
deriving DecidableEq, Repr

/-- The storm detector after a restart (R119). -/
def StormDetector.fresh : StormDetector := ⟨false, 0, 0, none⟩

/-- The epoch assembler (Figure 7-1). -/
structure Assembler where
  queue      : List Entry
  lastOpened : Option HutTime
  cadence    : Cadence
  stepMark   : Bool
  storm      : StormDetector
deriving DecidableEq, Repr

/-! ## The subscription and query engine (Section 8) -/

/-- The temperatures a TEMP entry holds, with their arrival time. A temperature none stands as
-32,768, as it was received (R125). -/
structure HeldTemps where
  temps   : List Int
  arrival : HutTime
deriving DecidableEq, Repr

/-- The content of a subscription entry by class (Figure 8-1); absent is EMPTY. -/
inductive SubContent
  | temp (held : Option HeldTemps)
  | obs (held : Option ScalarObs)
deriving DecidableEq, Repr

/-- A subscription entry (Figure 8-1). -/
structure Subscription where
  station : Station
  content : SubContent
deriving DecidableEq, Repr

/-- A pending query (R128); `index` is the number of its TEMP entry, counted from 1. -/
structure PendingQuery where
  tag    : BitVec 4
  target : Station
  index  : Nat
  issue  : HutTime
deriving DecidableEq, Repr

/-- The subscription and query engine (R123, R128). -/
structure QueryEngine where
  subs       : List Subscription
  queries    : List PendingQuery
  tagCounter : BitVec 4
deriving DecidableEq, Repr

/-! ## The record ring (Section 9) -/

/-- The record ring (R138, R146). `places` lists the written places in rising order (INVENTORY.md,
Memory and ordering). `lappedNow` is the model's own: the sequence numbers that lapping writes have given up
at the present moment, whose CONSUME R145 judges; an oscillator edge ends the moment (log entry 34). -/
structure Ring where
  places    : List (Nat × Record)
  producer  : BitVec 16
  consumer  : BitVec 16
  written   : Nat
  marker    : Bool
  lappedNow : List (BitVec 16)
deriving DecidableEq, Repr

/-! ## Restart, pins, and the model's bookkeeping -/

/-- What holds a restart between entry and completion (R164, R165), and the kind of the last one.
`supplyLow` says that the supply is below the retention level; `supplyTicks` counts the oscillator ticks
for which it has stayed above that level since its last rise. -/
structure RestartState where
  resetLow    : Bool
  supplyHold  : Bool
  supplyLow   : Bool
  supplyTicks : Nat
  lastKind    : RestartKind
deriving DecidableEq, Repr

/-- The levels of the level-sensitive inputs; true is active, that is, low (R30, R51). -/
structure Pins where
  dist0 : Bool
  dist1 : Bool
  lock  : Bool
deriving DecidableEq, Repr

/-- The events of the whole second last reached that are still to be taken, and the fast instant still
to be taken (R40; log entry 3). -/
structure Due where
  second   : HutTime
  mark     : Bool
  roll     : Bool
  temp     : Bool
  base     : Bool
  consider : Bool
  promote  : Bool
  roundEnd : Bool
  fast     : Option HutTime
deriving DecidableEq, Repr

/-- Nothing is due. -/
def Due.clear : Due := ⟨⟨0#32, 0⟩, false, false, false, false, false, false, false, none⟩

/-- The node. `pending` is the queue of commands waiting, first in first out. -/
structure State where
  line       : LineInterface
  presence   : PresenceBlock
  clock      : HutClock
  engine     : Engine
  port       : SamplePort
  store      : CorrectionStore
  assembler  : Assembler
  query      : QueryEngine
  ring       : Ring
  conditions : Conditions
  straps     : Straps
  restart    : RestartState
  pins       : Pins
  due        : Due
  pending    : List Instr
deriving DecidableEq, Repr

/-! ## One update per block -/

def State.withLine (s : State) (x : LineInterface) : State := { s with line := x }
def State.withPresence (s : State) (x : PresenceBlock) : State := { s with presence := x }
def State.withClock (s : State) (x : HutClock) : State := { s with clock := x }
def State.withEngine (s : State) (x : Engine) : State := { s with engine := x }
def State.withPort (s : State) (x : SamplePort) : State := { s with port := x }
def State.withStore (s : State) (x : CorrectionStore) : State := { s with store := x }
def State.withAssembler (s : State) (x : Assembler) : State := { s with assembler := x }
def State.withQuery (s : State) (x : QueryEngine) : State := { s with query := x }
def State.withRing (s : State) (x : Ring) : State := { s with ring := x }
def State.withConditions (s : State) (x : Conditions) : State := { s with conditions := x }
def State.withStraps (s : State) (x : Straps) : State := { s with straps := x }
def State.withRestart (s : State) (x : RestartState) : State := { s with restart := x }
def State.withPins (s : State) (x : Pins) : State := { s with pins := x }
def State.withDue (s : State) (x : Due) : State := { s with due := x }
def State.withPending (s : State) (x : List Instr) : State := { s with pending := x }

/-! ## Reasons to stop -/

/-- Why a command could end in a fault. The specification gives the node no fault that stops it (line
trouble, wrong straps, refused questions and lost data are all state), so there is no constructor:
no command faults. -/
inductive Fault
deriving DecidableEq, Repr

/-- Why a command could be refused. -/
inductive Refusal
  /-- Raised by `exec` for a command without a meaning; safe. Every command has one, so none raises it. -/
  | notModelled (mnemonic : String)
deriving DecidableEq, Repr

/-! ## Reset -/

/-- The role a role strap selects (Figure 11-1). -/
def roleAtReset (code : BitVec 2) : Role :=
  match code.toNat with
  | 0 => .vector
  | 1 => .scalar
  | 2 => .thermal
  | _ => .clock

/-- A field channel of the default set (Figure 6-4). -/
def channelAtReset : Channel :=
  ⟨⟨65536, .none, 0#5, 0, 0⟩, List.replicate 8 ⟨0, 0, 0⟩⟩

/-- How many field channels and how many temperature channels a role has (Figure 5-1). -/
def channelsAtReset : Role → Nat × Nat
  | .vector => (3, 2)
  | .scalar => (1, 1)
  | .thermal => (0, 4)
  | .clock => (0, 1)

/-- The node right after a power-up restart has completed under `Config.resetStraps` (log entry 11):
every block at the value its section gives for a cold restart (R22, R38, R53, R54, R80, R84, R97,
R122, R135, R148, R157, R166), the RESTART note written (R167), the inputs inactive (log entry 12). -/
def State.reset : State :=
  let role := roleAtReset Config.resetStraps.role
  { line := ⟨.joining, 0, .waiting, 0, 0, none, none, [], [], [], none, none, 1, false, false⟩
    presence := ⟨List.replicate 30 .fresh, 0, 0, .clear, .clear⟩
    clock := ⟨⟨0#32, 0⟩, 0, 0, 0, .unset, 7, 0#8, none, false, 20000000, []⟩
    engine := ⟨⟨0#32, 0⟩, none, 0⟩
    port := ⟨none, [], List.replicate (channelsAtReset role).2 none⟩
    store := ⟨⟨⟨0, 0#5, 30⟩, List.replicate (channelsAtReset role).1 channelAtReset⟩, 0#16, role, none, none⟩
    assembler := ⟨[], none, .base, false, .fresh⟩
    query := ⟨[], [], 0#4⟩
    ring :=
      ⟨[(0, ⟨role, Config.resetStraps.station, 0#16, .note ⟨0#32, 0⟩ (.restart .cold)⟩)], 1#16, 0#16, 1, true, []⟩
    conditions := .clear
    straps := ⟨Config.resetStraps.station, role, Config.resetStraps.rate⟩
    restart := ⟨false, false, false, 0, .cold⟩
    pins := ⟨false, false, false⟩
    due := .clear
    pending := [] }

end Sys2Proof.Machine
end

