-- ==== Sys2Proof/Machine/Arith.lean ====
section
/-! DEFINITION. The part's numbers: its fixed quantities, rounding to nearest, hut time arithmetic and
the integer square root. -/

namespace Sys2Proof.Machine

/-! ## Fixed quantities -/

/-- 1 s of hut time in ticks (00_scope, Units and numbers). -/
def ticksPerSecond : Nat := 10000000
/-- One bit time in oscillator ticks for each rate strap (Figure 1-1). -/
def bitTicks (rate : BitVec 2) : Nat := 160 / 2 ^ rate.toNat
/-- Fully recessive bit times after which the line is idle (R3). -/
def idleBits : Nat := 8
/-- Fully recessive bit times a RESTRAINED node waits before a send (R7): 8 and 24 further. -/
def restrainedBits : Nat := 32
/-- Fully recessive bit times that end JOINING (R15). -/
def joiningBits : Nat := 128
/-- Capacity of the REPLY queue (Figure 1-11). -/
def replyCapacity : Nat := 8
/-- Capacity of the ASK queue and of the pending query table (Figure 1-11, R128). -/
def askCapacity : Nat := 4
/-- Capacity of the OBS queue (Figure 1-11). -/
def obsCapacity : Nat := 4
/-- Silence after which a station is ABSENT: 3 s (R25). -/
def presenceTicks : Int := 30000000
/-- Debounce time of a disturbance input: 50 ms (R30). -/
def debounceTicks : Nat := 500000
/-- PPS age at which the reference lock is lost: 2 s (R51). -/
def ppsAgeLimit : Nat := 20000000
/-- Most PPS samples held in a round (R52). -/
def ppsCapacity : Nat := 8
/-- The correction from which a SET node steps: 1 ms (R64). -/
def stepThreshold : Int := 10000
/-- The limit of rate trim and slew in ppb (R42). -/
def trimLimit : Int := 50000
/-- The limit of the trim accumulator in 10^-9 tick (R41). -/
def accumulatorLimit : Int := 1000000000
/-- Sets in the sample history (R76). -/
def historyCapacity : Nat := 8
/-- Entries of the assembly queue (R98). -/
def queueCapacity : Nat := 4
/-- The hold of an entry: 300 ms (R107). -/
def holdTicks : Int := 3000000
/-- The longest bracket that is interpolated across: 250 ms (R109). -/
def gapTicks : Int := 2500000
/-- The bound of a recorded field value (R114). -/
def fieldLimit : Int := 2000000000
/-- The bound of deltaF (R116). -/
def deltaLimit : Int := 32767
/-- Where a bracket span is held (R171). -/
def spanLimit : Nat := 16777215
/-- Onset records that assert STORM (R118). -/
def onsetRecords : Nat := 3
/-- Quiet records that deassert STORM (R118). -/
def quietRecords : Nat := 60
/-- The time a query waits for its answer: 250 ms (R130). -/
def queryTicks : Int := 2500000
/-- Places of the record ring (R138). -/
def ringPlaces : Nat := 1024
/-- Most records of one READ WINDOW (R143). -/
def windowLimit : Nat := 8
/-- How long the supply must stay above the retention level: 100 ms (R164). -/
def supplyTicksNeeded : Nat := 1000000
/-- The code a temperature list carries for "none" (R75). -/
def noTemp : Int := -32768

/-! ## Rounding (R1) -/

/-- The quotient of `n` by a positive `d`, rounded to nearest, a half away from zero (R1). -/
def divRound (n d : Int) : Int :=
  if 0 ≤ n then (2 * n + d) / (2 * d) else -((2 * (-n) + d) / (2 * d))

/-- `x` held within `lo` and `hi`. -/
def clampInt (lo hi x : Int) : Int :=
  if x < lo then lo else if hi < x then hi else x

/-- Restoring square root: `acc` grown by the powers of two below `2 ^ k` that keep its square at most `n`. -/
def isqrtFrom : Nat → Nat → Nat → Nat
  | 0, _, acc => acc
  | k + 1, n, acc =>
    if (acc + 2 ^ k) * (acc + 2 ^ k) ≤ n then isqrtFrom k n (acc + 2 ^ k) else isqrtFrom k n acc

/-- The whole part of the square root of `n`, for `n` below 2^66. -/
def isqrt (n : Nat) : Nat := isqrtFrom 33 n 0

/-- The square root of `n` rounded to nearest (R116): a root never lies on a half. -/
def nearestRoot (n : Nat) : Nat :=
  if isqrt n < n - isqrt n * isqrt n then isqrt n + 1 else isqrt n

end Sys2Proof.Machine

namespace Sys2Proof

open Machine (ticksPerSecond clampInt)

/-! ## Hut time (R39) -/

/-- Hut time as a count of ticks since 0.0. -/
def HutTime.toTicks (t : HutTime) : Nat := t.sec.toNat * ticksPerSecond + t.tick

/-- The hut time that stands `n` ticks after 0.0, the seconds count wrapping at 2^32. -/
def HutTime.ofTicks (n : Nat) : HutTime := ⟨BitVec.ofNat 32 (n / ticksPerSecond), n % ticksPerSecond⟩

/-- Hut time moved by a signed count of ticks; the seconds count wraps both ways (R39, R44). -/
def HutTime.add (t : HutTime) (c : Int) : HutTime :=
  .ofTicks ((((t.toTicks : Int) + c) % ((2 ^ 32 * ticksPerSecond : Nat) : Int)).toNat)

/-- The difference a - b of two hut times: the seconds difference taken as the short one across the
wrap, and the whole held within -2^47 and 2^47 - 1 ticks (R39). -/
def HutTime.diff (a b : HutTime) : Int :=
  clampInt (-(2 ^ 47)) (2 ^ 47 - 1)
    ((a.sec - b.sec).toInt * (ticksPerSecond : Int) + ((a.tick : Int) - (b.tick : Int)))

/-- `a` is later than `b`, by the signed difference (R73, R101). -/
def HutTime.later (a b : HutTime) : Bool := decide (0 < a.diff b)

/-- The hut time is a whole second. -/
def HutTime.isWhole (t : HutTime) : Bool := decide (t.tick = 0)

/-- The tick part is that of a fast epoch instant (Figure 7-2). -/
def HutTime.isFast (t : HutTime) : Bool :=
  decide (t.tick = 2000000 ∨ t.tick = 4000000 ∨ t.tick = 6000000 ∨ t.tick = 8000000)

/-- 0.0, the hut time after a cold restart (R53). -/
def HutTime.zero : HutTime := ⟨0#32, 0⟩

end Sys2Proof
end

