-- ==== Sys2Proof/Machine/Flags.lean ====
section
/-! DEFINITION. The node's flags: flag wires and their codes, sticky conditions, the quality set
(Figures 7-6, 10-4, 12-1). -/

namespace Sys2Proof.Machine

/-! ## Wires -/

/-- The wire-by-wire combination of two sets (R35). -/
def WireSet.join (a b : WireSet) : WireSet :=
  ⟨a.storm || b.storm, a.door || b.door, a.heater || b.heater, a.service || b.service⟩

/-- The wire set's byte: bit 0 STORM, bit 1 DOOR, bit 2 HEATER, bit 3 SERVICE (Figure 12-1). -/
def WireSet.toByte (w : WireSet) : Byte :=
  BitVec.ofNat 8 (w.storm.toNat + 2 * w.door.toNat + 4 * w.heater.toNat + 8 * w.service.toNat)

/-- The wire set a byte carries; unassigned bits are disregarded (R169). -/
def WireSet.ofByte (b : Byte) : WireSet :=
  ⟨b.getLsbD 0, b.getLsbD 1, b.getLsbD 2, b.getLsbD 3⟩

/-- The own assertion that a disturbance input drives (Figure 2-4). -/
def WireSet.input (w : WireSet) : DistInput → Bool
  | .door => w.door
  | .heater => w.heater

/-- The wire set with the assertion of a disturbance input set to a level. -/
def WireSet.setInput (w : WireSet) (level : Bool) : DistInput → WireSet
  | .door => { w with door := level }
  | .heater => { w with heater := level }

/-! ## Sticky conditions -/

/-- The byte of a condition set (Figure 12-1). -/
def Conditions.toByte (c : Conditions) : Byte :=
  BitVec.ofNat 8 (c.duplicate.toNat + 2 * c.partialSet.toNat + 4 * c.lapped.toNat + 8 * c.stepped.toNat
    + 16 * c.queryTimeout.toNat)

/-- The conditions without those the byte names (R158). -/
def Conditions.without (c : Conditions) (b : Byte) : Conditions :=
  ⟨c.duplicate && !b.getLsbD 0, c.partialSet && !b.getLsbD 1, c.lapped && !b.getLsbD 2,
    c.stepped && !b.getLsbD 3, c.queryTimeout && !b.getLsbD 4⟩

/-- The byte names nothing but the five conditions (Figure 12-5: bits 5 to 7 are refused). -/
def namesOnlyConditions (b : Byte) : Bool := b.toNat < 32

/-! ## The quality set -/

/-- The two bytes of a quality set, as a number (Figure 12-1). -/
def Quality.toNat (q : Quality) : Nat :=
  q.gap.toNat + 16 * q.sat.toNat + 256 * q.tempStale.toNat + 512 * q.tempMissing.toNat
    + 1024 * q.uncorrected.toNat + 2048 * q.step.toNat + 4096 * q.unset.toNat + 8192 * q.dfSat.toNat

/-- Four slot members from the list of the slots' marks, slot 1 first; missing slots set no member (R117). -/
def slotMembers (marks : List Bool) : BitVec 4 :=
  BitVec.ofNat 4 ((marks.getD 0 false).toNat + 2 * (marks.getD 1 false).toNat
    + 4 * (marks.getD 2 false).toNat + 8 * (marks.getD 3 false).toNat)

end Sys2Proof.Machine
end

