-- ==== Sys2Proof/Machine/Layouts.lean ====
section
/-! DEFINITION. The byte layouts of everything that leaves the part (Section 12), the frame of a packet
(R4) and its check (R6). -/

namespace Sys2Proof.Machine

/-! ## Bytes (R169) -/

/-- `k` bytes of an unsigned value, most significant first. -/
def beBytes : Nat → Nat → List Byte
  | 0, _ => []
  | k + 1, v => BitVec.ofNat 8 (v / 256 ^ k) :: beBytes k v

/-- `k` bytes of a signed value in two's complement, most significant first. -/
def beSigned (k : Nat) (x : Int) : List Byte := beBytes k (x % ((256 ^ k : Nat) : Int)).toNat

/-- The unsigned value of bytes, most significant first. -/
def beNat (bs : List Byte) : Nat := bs.foldl (fun a b => a * 256 + b.toNat) 0

/-- The signed value of bytes in two's complement. -/
def beInt (bs : List Byte) : Int :=
  if 2 * beNat bs < 256 ^ bs.length then (beNat bs : Int) else (beNat bs : Int) - ((256 ^ bs.length : Nat) : Int)

/-- A hut time: seconds in 4 bytes, tick count in 3 (Figure 12-1). -/
def timeBytes (t : HutTime) : List Byte := beBytes 4 t.sec.toNat ++ beBytes 3 t.tick

/-! ## Codes (Figure 12-2) -/

def Role.code : Role → Byte
  | .vector => 0#8
  | .scalar => 1#8
  | .thermal => 2#8
  | .clock => 3#8

/-- The role a code names. -/
def roleOfCode (n : Nat) : Option Role :=
  match n with
  | 0 => some .vector
  | 1 => some .scalar
  | 2 => some .thermal
  | 3 => some .clock
  | _ => none

def TimeState.code : TimeState → Byte
  | .unset => 0#8
  | .set => 1#8

/-- STRAP FAULT has no code: no packet and no note carries it (R15, R163). -/
def Standing.code : Standing → Byte
  | .joining => 0#8
  | .normal => 1#8
  | .restrained => 2#8
  | .withdrawn => 3#8
  | .strapFault => 0#8

def RestartKind.code : RestartKind → Byte
  | .warm => 0#8
  | .cold => 1#8

def PendingState.code : PendingState → Byte
  | .none => 0#8
  | .isOpen => 1#8
  | .scheduled => 2#8

def Status.code : Status → Byte
  | .done => 0#8
  | .busy => 1#8
  | .stale => 2#8
  | .range => 3#8
  | .empty => 4#8
  | .tooOld => 5#8
  | .refused => 6#8
  | .unknown => 7#8

def SourceKind.code : SourceKind → Byte
  | .none => 0#8
  | .localTS => 1#8
  | .localTE => 2#8
  | .peer => 3#8

def EpochKind.code : EpochKind → Byte
  | .base => 0#8
  | .fast => 1#8

def CloseCause.code : CloseCause → Byte
  | .complete => 0#8
  | .hold => 1#8
  | .step => 2#8

/-! ### Question codes -/

def qStatus : Byte := 1#8
def qReadWindow : Byte := 2#8
def qConsume : Byte := 3#8
def qTableRead : Byte := 4#8
def qTableWrite : Byte := 5#8
def qTableCommit : Byte := 6#8
def qTableDiscard : Byte := 7#8
def qTempNow : Byte := 8#8
def qFence : Byte := 9#8
def qClearConditions : Byte := 10#8
def qRestart : Byte := 11#8

/-- The code names a question. -/
def isQuestion (code : Byte) : Bool := 1 ≤ code.toNat && code.toNat ≤ 11

/-! ## Records (Figure 12-8) -/

/-- A value slot: 4 bytes, signed; absent is -2,147,483,648. -/
def slotBytes : Option Int → List Byte
  | some v => beSigned 4 v
  | none => beSigned 4 (-(2 ^ 31))

/-- deltaF: 2 bytes, signed; absent is -32,768. -/
def deltaBytes : Option Int → List Byte
  | some v => beSigned 2 v
  | none => beSigned 2 (-32768)

/-- A temperature in a TEMP packet or a TEMP NOW reply: 2 bytes; none is -32,768. -/
def tempBytes : Option Int → List Byte
  | some v => beSigned 2 v
  | none => beSigned 2 noTemp

/-- Note type and the six value bytes of a note. -/
def noteBytes : NoteValue → List Byte
  | .step c => 0#8 :: beSigned 6 c
  | .promote e => 1#8 :: (beBytes 2 e.toNat ++ beBytes 4 0)
  | .standing st n => 2#8 :: st.code :: BitVec.ofNat 8 n :: beBytes 4 0
  | .restart k => 3#8 :: k.code :: beBytes 5 0

/-- The 40 bytes of a record. -/
def recordBytes (r : Record) : List Byte :=
  match r.content with
  | .epoch c =>
    c.kind.code :: r.role.code :: BitVec.ofNat 8 r.station.toNat :: (beBytes 2 r.seq.toNat ++ timeBytes c.instant
      ++ beBytes 2 c.edition.toNat ++ [c.wires.toByte, BitVec.ofNat 8 c.grade] ++ beBytes 2 c.quality.toNat
      ++ slotBytes (c.slots.getD 0 none) ++ slotBytes (c.slots.getD 1 none)
      ++ slotBytes (c.slots.getD 2 none) ++ slotBytes (c.slots.getD 3 none)
      ++ deltaBytes c.deltaF ++ [c.cause.code] ++ beBytes 3 c.span)
  | .note t v =>
    2#8 :: r.role.code :: BitVec.ofNat 8 r.station.toNat :: (beBytes 2 r.seq.toNat ++ timeBytes t
      ++ noteBytes v ++ List.replicate 21 0#8)

/-! ## Parts of a correction set (Figure 12-6) -/

def addressBytes : PartAddress → List Byte
  | .header => [0#8, 0#8, 0#8]
  | .base c => [1#8, BitVec.ofNat 8 c, 0#8]
  | .point c k => [2#8, BitVec.ofNat 8 c, BitVec.ofNat 8 k]

def contentBytes : PartContent → List Byte
  | .header h => beBytes 3 h.stormThreshold ++ [BitVec.ofNat 8 h.scalarSource.toNat] ++ beBytes 2 h.ageLimit
  | .base b => beBytes 3 b.gain ++
      [b.source.code, BitVec.ofNat 8 b.station.toNat, BitVec.ofNat 8 b.probe, BitVec.ofNat 8 b.pointCount]
  | .point p => beSigned 2 p.temp ++ beSigned 2 p.scale ++ beSigned 3 p.offset

/-! ## Replies (Figure 12-7) -/

def tableBytes (t : TableState) : List Byte :=
  beBytes 2 t.working.toNat ++ beBytes 2 t.active.toNat ++ [t.pending.code]

/-- The 33 bytes of a STATUS body. -/
def snapshotBytes (s : Snapshot) : List Byte :=
  timeBytes s.time ++ [s.timeState.code, BitVec.ofNat 8 s.grade, BitVec.ofNat 8 s.locked.toNat]
    ++ beSigned 3 s.rateTrim ++ beSigned 6 s.lastCorrection ++ [s.standing.code, BitVec.ofNat 8 s.score]
    ++ beBytes 2 s.activeEdition.toNat ++ beBytes 2 s.workingEdition.toNat ++ [s.pendingState.code]
    ++ beBytes 2 s.producer.toNat ++ beBytes 2 s.consumer.toNat
    ++ [s.conditions.toByte, s.own.toByte, s.lastKind.code]

def bodyBytes : ReplyBody → List Byte
  | .empty => []
  | .status s => snapshotBytes s
  | .window q last r => beBytes 2 q.toNat ++ [BitVec.ofNat 8 last.toNat] ++ recordBytes r
  | .ring p c => beBytes 2 p.toNat ++ beBytes 2 c.toNat
  | .table t => tableBytes t
  | .part t a c => tableBytes t ++ addressBytes a ++ contentBytes c
  | .commitFailure t ch k => tableBytes t ++ [BitVec.ofNat 8 ch, BitVec.ofNat 8 k]
  | .temps l => BitVec.ofNat 8 l.length :: l.flatMap tempBytes
  | .conditions c => [c.toByte]

/-! ## Payloads (Figures 12-4, 12-5, 12-7) -/

/-- A MARK's flags: bit 0 UNSET, bit 1 reference. -/
def markFlags (m : MarkPacket) : Byte := BitVec.ofNat 8 (m.unset.toNat + 2 * m.reference.toNat)

/-- A MARK's prev fields: 255 and 0.0 for none. -/
def prevBytes : Option MarkCapture → List Byte
  | some c => c.seq :: timeBytes c.time
  | none => 255#8 :: timeBytes .zero

/-- The payload bytes of a packet. -/
def payloadBytes : Packet → List Byte
  | .mark m => m.seq :: (prevBytes m.prev ++ [BitVec.ofNat 8 m.grade, markFlags m])
  | .flag w => [w.toByte]
  | .reply r => BitVec.ofNat 8 r.asker.toNat :: r.tag :: r.question :: r.status.code :: bodyBytes r.body
  | .ask a => [BitVec.ofNat 8 a.target.toNat, BitVec.ofNat 8 a.tag.toNat, qTempNow]
  | .obs (.record r) => 0#8 :: recordBytes r
  | .obs (.fence f) =>
    [1#8, BitVec.ofNat 8 f.asker.toNat, f.tag, qFence, Status.done.code] ++ timeBytes f.time
      ++ beBytes 2 f.producer.toNat
  | .temp t => t.role.code :: BitVec.ofNat 8 t.temps.length :: t.temps.flatMap tempBytes
  | .roll r w =>
    [r.role.code, r.standing.code, BitVec.ofNat 8 r.score, r.timeState.code, BitVec.ofNat 8 r.grade, w.toByte]
      ++ beBytes 2 r.edition.toNat ++ beBytes 2 r.unconsumed ++ [r.kind.code]

/-! ## The frame (R4) and its check (R6) -/

/-- The class of a packet (Figure 1-3). -/
def Packet.cls : Packet → PacketClass
  | .mark _ => .mark
  | .flag _ => .flag
  | .reply _ => .reply
  | .ask _ => .ask
  | .obs _ => .obs
  | .temp _ => .temp
  | .roll _ _ => .roll

def PacketClass.code : PacketClass → BitVec 3
  | .mark => 0#3
  | .flag => 1#3
  | .reply => 2#3
  | .ask => 3#3
  | .obs => 4#3
  | .temp => 5#3
  | .roll => 6#3

/-- The 14 header bits: class, source station, payload length (Figure 12-3). -/
def frameHeader (cls : PacketClass) (source : Station) (length : Nat) : BitVec 14 :=
  cls.code ++ source ++ BitVec.ofNat 6 length

/-- The bits of a word, most significant first, in the order they are sent. -/
def msbFirst {n : Nat} (v : BitVec n) : List Bool := (List.range n).map v.getMsbD

/-- The header and payload bits, which the check covers. -/
def coveredBits (header : BitVec 14) (payload : List Byte) : List Bool :=
  msbFirst header ++ payload.flatMap msbFirst

/-- One bit into the check register, polynomial x^16 + x^12 + x^5 + 1 (R6). -/
def checkBit (r : BitVec 16) (b : Bool) : BitVec 16 :=
  if r.msb != b then (r <<< 1) ^^^ 0x1021#16 else r <<< 1

/-- The check of a header and payload: the register, all ones at first, after their last bit (R6). -/
def frameCheck (header : BitVec 14) (payload : List Byte) : BitVec 16 :=
  (coveredBits header payload).foldl checkBit 0xFFFF#16

/-- The whole frame as bits sent, from the start bit through the last check bit; false is dominant (R2, R4). -/
def frameBits (header : BitVec 14) (payload : List Byte) : List Bool :=
  false :: (coveredBits header payload ++ msbFirst (frameCheck header payload))

/-- A receiver's judgment of a packet (R11): class 0 to 6, payload length at most 48 and taken whole, and
a matching check. -/
def goodFrame (header : BitVec 14) (payload : List Byte) (check : BitVec 16) : Bool :=
  decide (header.toNat / 2048 < 7) && decide (header.toNat % 64 ≤ 48)
    && decide (payload.length = header.toNat % 64) && decide (check = frameCheck header payload)

/-- Bit times a packet occupies on the line (R4). -/
def packetBitTimes (length : Nat) : Nat := 40 + 8 * length

end Sys2Proof.Machine
end

