-- ==== Sys2Proof/Machine/Operands.lean ====
section
/-! DEFINITION. The operand forms: what each class of received packet must look like to be taken by its
owner (R170), and what the operands of each question are (Figures 12-5 and 12-6). -/

namespace Sys2Proof.Machine

/-- The byte at an offset (0 beyond the end). -/
def byteAt (bs : List Byte) (i : Nat) : Byte := bs.getD i 0#8

/-- The bytes from offset `i`, `n` of them. -/
def bytesAt (bs : List Byte) (i n : Nat) : List Byte := (bs.drop i).take n

/-- A hut time in seven bytes, if its tick count is one (Figure 12-1, R170). -/
def parseTime (bs : List Byte) : Option HutTime :=
  if beNat (bytesAt bs 4 3) < ticksPerSecond then
    some ⟨BitVec.ofNat 32 (beNat (bytesAt bs 0 4)), beNat (bytesAt bs 4 3)⟩
  else none

/-! ## Received packets (R170) -/

/-- What a received MARK carries. -/
structure MarkInfo where
  seq     : BitVec 8
  prevSeq : BitVec 8
  prev    : HutTime
  grade   : Nat
  unset   : Bool
deriving DecidableEq, Repr

/-- A MARK: 11 bytes, own sequence number not 255, tick count and grade in range. -/
def parseMark (p : List Byte) : Option MarkInfo :=
  if p.length = 11 ∧ byteAt p 0 ≠ 255#8 ∧ (byteAt p 9).toNat ≤ 7 then
    (parseTime (bytesAt p 2 7)).map fun t =>
      ⟨byteAt p 0, byteAt p 1, t, (byteAt p 9).toNat, (byteAt p 10).getLsbD 0⟩
  else none

/-- A FLAG: one byte. -/
def parseFlag (p : List Byte) : Option WireSet :=
  if p.length = 1 then some (.ofByte (byteAt p 0)) else none

/-- What a node keeps of a received ROLL (R28). -/
structure RollInfo where
  timeState : TimeState
  wires     : WireSet
deriving DecidableEq, Repr

/-- A ROLL: 11 bytes, every code among its own, grade in range. -/
def parseRoll (p : List Byte) : Option RollInfo :=
  if p.length = 11 ∧ (byteAt p 0).toNat ≤ 3 ∧ (byteAt p 1).toNat ≤ 3 ∧ (byteAt p 3).toNat ≤ 1
      ∧ (byteAt p 4).toNat ≤ 7 ∧ (byteAt p 10).toNat ≤ 1 then
    some ⟨if byteAt p 3 = 0#8 then .unset else .set, .ofByte (byteAt p 5)⟩
  else none

/-- Temperatures of two bytes each. -/
def tempList : List Byte → List Int
  | a :: b :: rest => beInt [a, b] :: tempList rest
  | _ => []

/-- A TEMP: a role code, a count n from 1 to 4 (R125) and 2n further bytes. -/
def parseTemp (p : List Byte) : Option (List Int) :=
  if (byteAt p 0).toNat ≤ 3 ∧ 1 ≤ (byteAt p 1).toNat ∧ (byteAt p 1).toNat ≤ 4
      ∧ p.length = 2 + 2 * (byteAt p 1).toNat then
    some (tempList (p.drop 2))
  else none

/-- What a received OBS carries: a base record's role, instant and slot 1, or a fence reply. -/
inductive ObsInfo
  | record (role : Role) (obs : ScalarObs)
  | fence
deriving DecidableEq, Repr

/-- A slot of four bytes; -2,147,483,648 is absent (Figure 12-1). -/
def parseSlot (bs : List Byte) : Option Int :=
  if beInt bs = -(2 ^ 31) then none else some (beInt bs)

/-- An OBS: content 0 with the 40 bytes of a record of kind BASE, or content 1 with a fence reply; codes,
grade and tick counts in range. Offsets in the payload are one more than in the record. -/
def parseObs (p : List Byte) : Option ObsInfo :=
  if p.length = 41 ∧ byteAt p 0 = 0#8 then
    if byteAt p 1 = 0#8 ∧ (byteAt p 16).toNat ≤ 7 ∧ (byteAt p 37).toNat ≤ 2 then
      match roleOfCode (byteAt p 2).toNat, parseTime (bytesAt p 6 7) with
      | some r, some t => some (.record r ⟨t, parseSlot (bytesAt p 19 4)⟩)
      | _, _ => none
    else none
  else if p.length = 14 ∧ byteAt p 0 = 1#8 then
    if byteAt p 3 = qFence ∧ byteAt p 4 = Status.done.code ∧ (parseTime (bytesAt p 5 7)).isSome then
      some .fence
    else none
  else none

/-- What a received REPLY carries: asker, tag, question, and the temperature list of a DONE answer to
TEMP NOW whose count fits its length (absent for every other status, count or length). -/
structure ReplyInfo where
  asker    : Byte
  tag      : Byte
  question : Byte
  temps    : Option (List Int)
deriving DecidableEq, Repr

/-- A REPLY: at least 4 bytes, question and status among their codes (R170). A TEMP NOW reply whose
length differs from 5 + 2n counts as a count out of range (R170, R131). -/
def parseReply (p : List Byte) : Option ReplyInfo :=
  if 4 ≤ p.length ∧ isQuestion (byteAt p 2) = true ∧ (byteAt p 3).toNat ≤ 7 then
    some
      { asker := byteAt p 0
        tag := byteAt p 1
        question := byteAt p 2
        temps :=
          if byteAt p 3 = Status.done.code ∧ 5 ≤ p.length ∧ 1 ≤ (byteAt p 4).toNat ∧ (byteAt p 4).toNat ≤ 4
              ∧ p.length = 5 + 2 * (byteAt p 4).toNat then
            some (tempList (p.drop 5))
          else none }
  else none

/-! ## Operands of questions (Figure 12-5) -/

/-- The operand bytes of a TABLE WRITE hold edition and part address, and the content of the part kind
named; a part kind that is none of the three has no content length to check. -/
def writeLengthOk (ops : List Byte) : Bool :=
  decide (5 ≤ ops.length) &&
    (match (byteAt ops 2).toNat with
    | 0 => decide (ops.length = 11)
    | 1 => decide (ops.length = 12)
    | 2 => decide (ops.length = 12)
    | _ => true)

/-- The part a three-byte address names; absent when the part kind is none of the three. The channel
byte of a header and the slot byte of a header or a channel base are disregarded (log entry 20). -/
def parseAddress (kind channel slot : Byte) : Option PartAddress :=
  match kind.toNat with
  | 0 => some .header
  | 1 => some (.base channel.toNat)
  | 2 => some (.point channel.toNat slot.toNat)
  | _ => none

/-- Field channels of a role (Figure 5-1). -/
def fieldChannels : Role → Nat
  | .vector => 3
  | .scalar => 1
  | .thermal => 0
  | .clock => 0

/-- Temperature channels of a role (Figure 5-1). -/
def tempChannels : Role → Nat
  | .vector => 2
  | .scalar => 1
  | .thermal => 4
  | .clock => 1

/-- The address lies in the role's list of parts (R87). -/
def PartAddress.inRange (role : Role) : PartAddress → Bool
  | .header => true
  | .base c => decide (1 ≤ c ∧ c ≤ fieldChannels role)
  | .point c k => decide (1 ≤ c ∧ c ≤ fieldChannels role ∧ 1 ≤ k ∧ k ≤ 8)

/-- A station byte that names another station than the node's own (Figures 6-2, 6-3). -/
def otherStation (own : Station) (b : Byte) : Bool :=
  decide (1 ≤ b.toNat ∧ b.toNat ≤ 30 ∧ b.toNat ≠ own.toNat)

/-- A header in its ranges (Figure 6-2). -/
def parseHeader (role : Role) (own : Station) (bs : List Byte) : Option Header :=
  let threshold := beNat (bytesAt bs 0 3)
  let age := beNat (bytesAt bs 4 2)
  if (threshold = 0 ∨ (100 ≤ threshold ∧ threshold ≤ 1000000))
      ∧ (byteAt bs 3 = 0#8 ∨ (role ≠ .scalar ∧ otherStation own (byteAt bs 3) = true))
      ∧ 1 ≤ age ∧ age ≤ 600 then
    some ⟨threshold, (byteAt bs 3).setWidth 5, age⟩
  else none

/-- The temperature source kind a code names in a role: LOCAL TE in role V only (Figure 6-3). -/
def sourceOf (role : Role) (code : Byte) : Option SourceKind :=
  match code.toNat with
  | 0 => some .none
  | 1 => some .localTS
  | 2 => if role = .vector then some .localTE else none
  | 3 => some .peer
  | _ => none

/-- A channel base in its ranges (Figure 6-3). -/
def parseBase (role : Role) (own : Station) (bs : List Byte) : Option ChannelBase :=
  match sourceOf role (byteAt bs 3) with
  | none => none
  | some kind =>
    let sourceOk :=
      if kind = .peer then
        otherStation own (byteAt bs 4) && decide (1 ≤ (byteAt bs 5).toNat ∧ (byteAt bs 5).toNat ≤ 4)
      else decide (byteAt bs 4 = 0#8 ∧ byteAt bs 5 = 0#8)
    if 1 ≤ beNat (bytesAt bs 0 3) ∧ sourceOk = true ∧ (byteAt bs 6).toNat ≤ 8 then
      some ⟨beNat (bytesAt bs 0 3), kind, (byteAt bs 4).setWidth 5, (byteAt bs 5).toNat, (byteAt bs 6).toNat⟩
    else none

/-- A point in its ranges (Figure 6-3). -/
def parsePoint (bs : List Byte) : Option Point :=
  let t := beInt (bytesAt bs 0 2)
  let s := beInt (bytesAt bs 2 2)
  let o := beInt (bytesAt bs 4 3)
  if -5000 ≤ t ∧ t ≤ 8000 ∧ -10000 ≤ s ∧ s ≤ 10000 ∧ -1000000 ≤ o ∧ o ≤ 1000000 then some ⟨t, s, o⟩ else none

/-- The content of a TABLE WRITE for a part, if every field lies in its range (R89, order 4). -/
def parseContent (role : Role) (own : Station) (bs : List Byte) : PartAddress → Option PartContent
  | .header => (parseHeader role own bs).map .header
  | .base _ => (parseBase role own bs).map .base
  | .point _ _ => (parsePoint bs).map .point

end Sys2Proof.Machine
end

