-- ==== Sys2Proof/Machine/Ops.lean ====
section
/-! DEFINITION. The operations the blocks share: the record ring's one write, the offers to the seven
transmit places, the own assertion set and the wire OR, the retirement of pending queries, the fault
score and standing, and the two receptions every received packet and every ASK goes through. -/

namespace Sys2Proof.Machine

/-! ## Held, running, and what the role and the store give -/

/-- A restart has been entered and not completed (R165): the part is held. -/
def State.held (s : State) : Bool := s.restart.resetLow || s.restart.supplyHold

/-- The blocks run: the part is not held and the standing is not STRAP FAULT (R163, R165). -/
def State.running (s : State) : Bool := !s.held && decide (s.line.standing ≠ .strapFault)

/-- One bit time in ticks under the rate strapped at the last restart (R2). -/
def State.bitTime (s : State) : Nat := bitTicks s.straps.rate

/-- The working edition (R81). -/
def CorrectionStore.working (c : CorrectionStore) : BitVec 16 :=
  match c.pendingSet with
  | some p => p.edition
  | none => c.activeEdition

/-- The pending state that replies report (R81). -/
def CorrectionStore.pendingState (c : CorrectionStore) : PendingState :=
  match c.pendingSet with
  | none => .none
  | some p => if p.scheduled then .scheduled else .isOpen

/-- The set an entry of this edition is computed with: the active set for the active edition, the
outgoing set otherwise (R96, R121). -/
def CorrectionStore.setFor (c : CorrectionStore) (edition : BitVec 16) : CorrectionSet :=
  if edition = c.activeEdition then c.active
  else
    match c.outgoing with
    | some o => o.content
    | none => c.active

/-- The temperatures a station's TEMP entry holds; absent when there is no such entry or it is EMPTY (R112, R123). -/
def QueryEngine.heldTemps (q : QueryEngine) (station : Station) : Option HeldTemps :=
  match q.subs.find? (fun e => decide (e.station = station) && (match e.content with | .temp _ => true | .obs _ => false)) with
  | some ⟨_, .temp held⟩ => held
  | _ => none

/-- The observation a station's OBS entry holds (R106). -/
def QueryEngine.heldObs (q : QueryEngine) (station : Station) : Option ScalarObs :=
  match q.subs.find? (fun e => decide (e.station = station) && (match e.content with | .temp _ => false | .obs _ => true)) with
  | some ⟨_, .obs held⟩ => held
  | _ => none

/-! ## The record ring's places -/

/-- The place of a sequence number (R138). -/
def placeOf (q : BitVec 16) : Nat := q.toNat % ringPlaces

/-- Writes a place, keeping the list in rising order of place; a place already listed is overwritten. -/
def insertPlace (k : Nat) (r : Record) : List (Nat × Record) → List (Nat × Record)
  | [] => [(k, r)]
  | (j, x) :: rest =>
    if k < j then (k, r) :: (j, x) :: rest
    else if k = j then (k, r) :: rest
    else (j, x) :: insertPlace k r rest

/-- The record in a place, absent where nothing has been written. -/
def lookupPlace (k : Nat) : List (Nat × Record) → Option Record
  | [] => none
  | (j, x) :: rest => if k = j then some x else lookupPlace k rest

/-- The record that stands in the place of a sequence number. -/
def Ring.recordAt (r : Ring) (q : BitVec 16) : Option Record := lookupPlace (placeOf q) r.places

/-- The distance of a sequence number behind P (R138). -/
def Ring.behind (r : Ring) (q : BitVec 16) : Nat := (r.producer - q).toNat

/-- The unconsumed count (R138). -/
def Ring.unconsumed (r : Ring) : Nat := r.behind r.consumer

/-- The ring holds 1,024 unconsumed records (R139, step 1). -/
def Ring.full (r : Ring) : Bool := decide (r.unconsumed = ringPlaces)

/-- The record the ring makes of a content: its sequence number is P before the write (R171). -/
def State.recordOf (s : State) (content : RecordContent) : Record :=
  ⟨s.straps.role, s.straps.station, s.ring.producer, content⟩

/-- The ring writes a record (R139): gives up the oldest unconsumed record and sets LAPPED when full,
writes place P mod 1,024, advances P and the written count. `lappedNow` notes the record given up (log entry 34). -/
def ringWrite (content : RecordContent) (s : State) : State :=
  (s.withRing
    { s.ring with
      places := insertPlace (placeOf s.ring.producer) (s.recordOf content) s.ring.places
      producer := s.ring.producer + 1#16
      consumer := if s.ring.full then s.ring.consumer + 1#16 else s.ring.consumer
      written := if s.ring.written < ringPlaces then s.ring.written + 1 else s.ring.written
      lappedNow := if s.ring.full then s.ring.lappedNow ++ [s.ring.consumer] else s.ring.lappedNow }).withConditions
    { s.conditions with lapped := s.conditions.lapped || s.ring.full }

/-- The ring writes a note with the hut time of its writing (R137). -/
def writeNote (v : NoteValue) (s : State) : State := ringWrite (.note s.clock.time v) s

/-! ## Transmit places (R18, R19) -/

/-- The places accept packets in JOINING, NORMAL and RESTRAINED standing (Figure 1-8). -/
def State.accepts (s : State) : Bool :=
  decide (s.line.standing = .joining ∨ s.line.standing = .normal ∨ s.line.standing = .restrained)

/-- The standing lets the node send, acknowledge and answer (Figure 1-8, R150). -/
def State.speaks (s : State) : Bool :=
  decide (s.line.standing = .normal ∨ s.line.standing = .restrained)

/-- A newer packet takes the slot of the packet in flight (R18). -/
def LineActivity.replacedAt (p : Place) : LineActivity → LineActivity
  | .sending sd => .sending (if sd.place = p then { sd with replaced := true } else sd)
  | .waiting => .waiting
  | .idle => .idle
  | .receiving c => .receiving c

/-- The packet in flight stands in this place. -/
def LineActivity.inFlight (p : Place) : LineActivity → Bool
  | .sending sd => decide (sd.place = p)
  | .waiting => false
  | .idle => false
  | .receiving _ => false

/-- Offers a MARK with its sequence number to the MARK slot (R18, R46). -/
def offerMark (q : BitVec 8) (s : State) : State :=
  if s.accepts then
    s.withLine { s.line with markSlot := some q, activity := s.line.activity.replacedAt .mark }
  else s

/-- Offers a FLAG with the whole own set to the FLAG slot (R32). -/
def offerFlag (w : WireSet) (s : State) : State :=
  if s.accepts then
    s.withLine { s.line with flagSlot := some w, activity := s.line.activity.replacedAt .flag }
  else s

/-- Offers a TEMP to the TEMP slot (R134). -/
def offerTemp (t : TempPacket) (s : State) : State :=
  if s.accepts then
    s.withLine { s.line with tempSlot := some t, activity := s.line.activity.replacedAt .temp }
  else s

/-- Offers a ROLL to the ROLL slot (R33). -/
def offerRoll (r : RollSummary) (s : State) : State :=
  if s.accepts then
    s.withLine { s.line with rollSlot := some r, activity := s.line.activity.replacedAt .roll }
  else s

/-- Offers a reply to the tail of the REPLY queue; a full queue refuses it (Figure 1-11). -/
def offerReply (r : Reply) (s : State) : State :=
  if s.accepts = true ∧ s.line.replyQueue.length < replyCapacity then
    s.withLine { s.line with replyQueue := s.line.replyQueue ++ [r] }
  else s

/-- Offers an own ASK to the tail of the ASK queue. That the queue is full "does not arise"
(Figure 1-11); an ASK that found it full would be discarded (log entry 22). -/
def offerAsk (a : OwnAsk) (s : State) : State :=
  if s.accepts = true ∧ s.line.askQueue.length < askCapacity then
    s.withLine { s.line with askQueue := s.line.askQueue ++ [a] }
  else s

/-- An OBS queue without its oldest OBS packet that is not the fence reply. -/
def dropOldestRecord : List ObsPacket → List ObsPacket
  | [] => []
  | .record _ :: rest => rest
  | .fence f :: rest => .fence f :: dropOldestRecord rest

/-- An OBS queue with room for one more: a full one loses its oldest OBS packet that is neither the fence
reply nor in flight (R19). -/
def obsRoom (headInFlight : Bool) (q : List ObsPacket) : List ObsPacket :=
  if q.length < obsCapacity then q
  else if headInFlight then
    match q with
    | [] => []
    | h :: rest => h :: dropOldestRecord rest
  else dropOldestRecord q

/-- Offers an OBS packet or a fence reply to the OBS queue (R19). -/
def offerObs (p : ObsPacket) (s : State) : State :=
  if s.accepts then
    s.withLine { s.line with obsQueue := obsRoom (s.line.activity.inFlight .obs) s.line.obsQueue ++ [p] }
  else s

/-- Every queue and slot empty (R17, R22). -/
def LineInterface.emptied (l : LineInterface) : LineInterface :=
  { l with
    markSlot := none, flagSlot := none, replyQueue := [], askQueue := [], obsQueue := []
    tempSlot := none, rollSlot := none }

/-! ## Wires (R29, R35) -/

/-- The wire OR: the own assertion set and the wire sets of all PRESENT entries (R35). -/
def PresenceBlock.orNow (p : PresenceBlock) : WireSet :=
  p.peers.foldr (fun e acc => if e.presence = .present then e.wires.join acc else acc) p.own

/-- The presence block recomputes the wire OR. -/
def PresenceBlock.recomputed (p : PresenceBlock) : PresenceBlock := { p with wireOr := p.orNow }

/-- The own assertion set takes a value: a change offers a FLAG and recomputes the OR; a value already
held is no change (R29, R32). -/
def setOwn (w : WireSet) (s : State) : State :=
  if w = s.presence.own then s
  else offerFlag w (s.withPresence { s.presence with own := w }.recomputed)

/-- The storm detector's event reaches the presence block (R31). -/
def setOwnStorm (b : Bool) (s : State) : State := setOwn { s.presence.own with storm := b } s

/-! ## The peer table (R23) -/

/-- The station number names an entry of the peer table (R23, R24). -/
def namesPeer (n : Station) : Bool := decide (1 ≤ n.toNat ∧ n.toNat ≤ 30)

/-- The entry of a station; one that names no entry reads as an entry after restart. -/
def PresenceBlock.peer (p : PresenceBlock) (n : Station) : Peer :=
  if namesPeer n then p.peers.getD (n.toNat - 1) .fresh else .fresh

/-- Changes the entry of a station; station 0 and 31 name none (R24). -/
def PresenceBlock.modifyPeer (p : PresenceBlock) (n : Station) (f : Peer → Peer) : PresenceBlock :=
  if namesPeer n then { p with peers := p.peers.modify (n.toNat - 1) f } else p

/-- The presence block records a station as heard (R24). -/
def heard (src : Station) (s : State) : State :=
  if namesPeer src then
    s.withPresence
      (s.presence.modifyPeer src fun e => { e with presence := .present, lastHeard := some s.clock.time })
  else s

/-- A station's wire set is replaced, and the OR recomputed where the values differ (R34). -/
def setPeerWires (src : Station) (w : WireSet) (s : State) : State :=
  if namesPeer src then
    let p := s.presence.modifyPeer src fun e => { e with wires := w }
    s.withPresence (if (s.presence.peer src).wires = w then p else p.recomputed)
  else s

/-! ## Pending queries (R130, R132) -/

/-- Removes ASKs from the ASK queue, but for one in flight at its head (R18). -/
def removeAsks (gone : OwnAsk → Bool) (s : State) : State :=
  s.withLine
    { s.line with
      askQueue :=
        match s.line.askQueue with
        | [] => []
        | h :: rest =>
          if s.line.activity.inFlight .ask then h :: rest.filter (fun a => !gone a)
          else (h :: rest).filter (fun a => !gone a) }

/-- Retires the pending queries that `gone` names and removes their ASKs that still wait. -/
def retireQueries (gone : PendingQuery → Bool) (s : State) : State :=
  removeAsks
    (fun a => s.query.queries.any fun q => gone q && decide (q.target = a.target ∧ q.tag = a.tag))
    (s.withQuery { s.query with queries := s.query.queries.filter fun q => !gone q })

/-! ## Fault score and standing (R14, R15, R17) -/

/-- The standing that Figure 1-7 gives from a standing and a score; `joined` says that an event that
ends JOINING has happened (a good packet, or its count of 128). The good packet whose -1 takes a WITHDRAWN node to
JOINING does not also end that JOINING: the node stays JOINING until a later event (log entry 35, DESIGN CHOICE). -/
def nextStanding (joined : Bool) (score : Nat) : Standing → Standing
  | .joining =>
    if 192 ≤ score then .withdrawn
    else if joined then (if score < 96 then .normal else .restrained)
    else .joining
  | .normal => if 96 ≤ score then .restrained else .normal
  | .restrained => if score ≤ 64 then .normal else if 192 ≤ score then .withdrawn else .restrained
  | .withdrawn => if score ≤ 64 then .joining else .withdrawn
  | .strapFault => .strapFault

/-- The node enters a standing: JOINING's count starts at 0, WITHDRAWN empties every place and retires
every query (R17), and the ring writes a STANDING note (R15, R137). -/
def enterStanding (st : Standing) (s : State) : State :=
  let l := { s.line with standing := st, joinCount := if st = .joining then 0 else s.line.joinCount }
  let s1 :=
    if st = .withdrawn then (s.withLine l.emptied).withQuery { s.query with queries := [] } else s.withLine l
  writeNote (.standing st s.line.score) s1

/-- The standing is evaluated anew (R15); at most one transition is taken (log entries 9 and 35). -/
def settleStanding (joined : Bool) (s : State) : State :=
  if nextStanding joined s.line.score s.line.standing = s.line.standing then s
  else enterStanding (nextStanding joined s.line.score s.line.standing) s

/-- The score rises by `n`, held at 255, and the standing is evaluated (R14). -/
def raiseScore (n : Nat) (joined : Bool) (s : State) : State :=
  settleStanding joined (s.withLine { s.line with score := min 255 (s.line.score + n) })

/-- The score falls by 1, held at 0, and the standing is evaluated (R14). -/
def lowerScore (joined : Bool) (s : State) : State :=
  settleStanding joined (s.withLine { s.line with score := s.line.score - 1 })

/-! ## Reception (R11 to R13) -/

/-- The node can take a packet: it runs, and the packet started on an idle line or is being taken (R11).
While the line is not idle, as after a bit fault, a receive fault or a packet's end, no packet is taken
(R9, R11); while the node sends, the packet on the line is its own. -/
def State.takesPackets (s : State) : Bool :=
  s.running && (match s.line.activity with | .idle => true | .receiving _ => true | .waiting => false | .sending _ => false)

/-- An ASK is handed over to the handler: the node takes packets, or the ASK is another station's and the
node's own packet is in flight meanwhile (R150, R155, R160, Figure 10-5) or has ended at this same moment
(R150's last paragraph, the send's end taken first; log entry 31). -/
def State.takesAsk (src : Station) (s : State) : Bool :=
  s.takesPackets ||
    (s.running && decide (src ≠ s.straps.station)
      && (match s.line.activity with | .sending _ => true | .waiting => s.line.sendEnded | .idle => false | .receiving _ => false))

/-- The receive capture of the packet in progress; absent when none was taken or a step discarded it (R12). -/
def State.receiveCapture (s : State) : Option HutTime :=
  match s.line.activity with
  | .receiving c => c
  | .waiting => none
  | .idle => none
  | .sending _ => none

/-- The line is no longer idle and its counts start afresh (R3, R15). -/
def LineInterface.disturbed (l : LineInterface) (a : LineActivity) : LineInterface :=
  { l with activity := a, quiet := 0, joinCount := 0 }

/-- The line interface after a packet from another station: waiting for the line to become idle; an own
packet in flight stays in flight (R7, log entry 31). -/
def LineInterface.afterPacket (l : LineInterface) : LineInterface :=
  match l.activity with
  | .sending _ => l
  | .waiting => l.disturbed .waiting
  | .idle => l.disturbed .waiting
  | .receiving _ => l.disturbed .waiting

/-- The end of a good packet: acknowledged in NORMAL and RESTRAINED standing (R10); the node waits for
the line to become idle. -/
def endReception (s : State) : State :=
  s.withLine { s.line.afterPacket with ackDriven := s.speaks }

/-- A good packet with the node's own number: handed to no block, score +8, DUPLICATE (R13). -/
def takeOwnNumber (s : State) : State :=
  raiseScore 8 true (s.withConditions { s.conditions with duplicate := true })

/-- A good packet is handed over (R13): own number apart, the presence block first, then the owner of
the class with the receive capture, then the score falls by 1 and the standing is evaluated (log entry 8). -/
def handOver (src : Station) (owner : Option HutTime → State → State) (s : State) : State :=
  if src = s.straps.station then takeOwnNumber (endReception s)
  else lowerScore true (owner s.receiveCapture (heard src (endReception s)))

/-- A good packet of any class but ASK. -/
def receivePacket (src : Station) (owner : Option HutTime → State → State) (s : State) : State :=
  if s.takesPackets then handOver src owner s else s

/-- A good packet of class ASK. -/
def receiveAskPacket (src : Station) (owner : Option HutTime → State → State) (s : State) : State :=
  if s.takesAsk src then handOver src owner s else s

/-! ## ASKs (R149 to R152) -/

/-- The ASK is addressed to this node, or to all with STATUS or FENCE; its source can take a reply and
its tag is at most 15 (R149). -/
def askAddressed (a : Ask) (code : Byte) (s : State) : Bool :=
  namesPeer a.source && decide (a.tag.toNat ≤ 15)
    && (decide (a.target.toNat = s.straps.station.toNat)
      || (decide (a.target = 0#8) && decide (code = qStatus ∨ code = qFence)))

/-- The handler accepts the ASK (R150). -/
def askAccepted (a : Ask) (code : Byte) (s : State) : Bool :=
  askAddressed a code s && s.speaks && decide (s.line.replyQueue.length < replyCapacity)

/-- The reply to an ASK (R152). -/
def replyTo (a : Ask) (code : Byte) (st : Status) (body : ReplyBody) : Reply :=
  ⟨a.source, a.tag, code, st, body⟩

/-- A good ASK with a question code: dropped, or accepted and, if its operands have the question's
length, carried out; else answered RANGE with an empty body (R150, R151). -/
def receiveAsk (a : Ask) (code : Byte) (lengthOk : Bool) (carry : State → State) (s : State) : State :=
  receiveAskPacket a.source
    (fun _ t =>
      if askAccepted a code t then
        if lengthOk then carry t else offerReply (replyTo a code .range .empty) t
      else t) s

/-! ## The line's capture at a step (R12) -/

/-- A step discards the capture of the packet in progress. -/
def LineActivity.withoutCapture : LineActivity → LineActivity
  | .receiving _ => .receiving none
  | .sending sd => .sending { sd with capture := none }
  | .waiting => .waiting
  | .idle => .idle

/-! ## What hut time reaches (R40) -/

/-- The events due at a whole second reached (Figure 3-1, R55, R94, R129). By counting the agreement
engine takes a round end at seconds divisible by 8 but for the second of its last one; a step's landing
ends no round (R55). In STRAP FAULT only the mark logic acts (R46). A promotion is due if a set is
SCHEDULED when the second is reached (R94). Role C assembles nothing (R98); role T publishes at its
records (R134). -/
def State.dueAt (s : State) (t : HutTime) (byStep : Bool) : Due :=
  { second := t
    mark := true
    roll := s.running && decide (t.sec.toNat % 10 = 0)
    temp := s.running && decide (t.sec.toNat % 10 = 0) && decide (s.straps.role ≠ .thermal)
    base := s.running && decide (s.straps.role ≠ .clock)
    consider := s.running
    promote := s.running && decide (s.store.pendingState = .scheduled)
    roundEnd :=
      s.running && !byStep && decide (t.sec.toNat % 8 = 0) && decide (s.engine.lastRoundEnd ≠ some t.sec)
    fast := none }

/-- Hut time has reached `t`: the events of a whole second become due; a fast instant becomes due under
STORM cadence (R99). While the part is held no event takes place (R165). -/
def reach (t : HutTime) (byStep : Bool) (s : State) : State :=
  if s.held then s
  else if t.isWhole then s.withDue (s.dueAt t byStep)
  else if t.isFast = true ∧ s.running = true ∧ s.straps.role ≠ .clock ∧ s.assembler.cadence = .storm then
    s.withDue { s.due with fast := some t }
  else s

end Sys2Proof.Machine
end

