-- ==== Sys2Proof/Machine/Presence.lean ====
section
/-! DEFINITION. The presence block's commands (Section 2): silence, disturbance inputs, ROLL offers,
received FLAGs and ROLLs. -/

namespace Sys2Proof.Machine

/-! ## Absence (R25, R27) -/

/-- The station is PRESENT and has been silent for 3 s of hut time. -/
def silenceOver (n : Station) (s : State) : Bool :=
  namesPeer n && decide ((s.presence.peer n).presence = .present)
    && (match (s.presence.peer n).lastHeard with
      | some t => decide (presenceTicks ≤ s.clock.time.diff t)
      | none => false)

/-- The entry of a station that has become ABSENT: wire set, mark capture and offset sample withdrawn;
the reported time state kept (R27). -/
def Peer.absented (e : Peer) : Peer :=
  { e with presence := .absent, capture := none, sample := none, wires := .clear }

/-- A station becomes ABSENT with every effect of R27. -/
def becomeAbsent (n : Station) (s : State) : State :=
  retireQueries (fun q => decide (q.target = n))
    (s.withPresence (s.presence.modifyPeer n Peer.absented).recomputed)

/-! ## Disturbance inputs (R30) -/

/-- The level of a disturbance input. -/
def Pins.dist (p : Pins) : DistInput → Bool
  | .door => p.dist0
  | .heater => p.dist1

def Pins.setDist (p : Pins) (active : Bool) : DistInput → Pins
  | .door => { p with dist0 := active }
  | .heater => { p with dist1 := active }

/-- The debounce count of an input. -/
def PresenceBlock.debounce (p : PresenceBlock) : DistInput → Nat
  | .door => p.debounce0
  | .heater => p.debounce1

def PresenceBlock.setDebounce (p : PresenceBlock) (n : Nat) : DistInput → PresenceBlock
  | .door => { p with debounce0 := n }
  | .heater => { p with debounce1 := n }

/-- An input takes a level. While the blocks run, a return to the level its own assertion shows sets
the count to 0. While they do not, only the pin changes (R165; log entry 12). -/
def changeInput (i : DistInput) (active : Bool) (s : State) : State :=
  let t := s.withPins (s.pins.setDist active i)
  if s.running = true ∧ active = s.presence.own.input i then
    t.withPresence (s.presence.setDebounce 0 i)
  else t

/-- The count of an input has reached 500,000: the own assertion takes its level, the count is 0. -/
def expireDebounce (i : DistInput) (s : State) : State :=
  if s.running = true ∧ debounceTicks ≤ s.presence.debounce i ∧ s.pins.dist i ≠ s.presence.own.input i then
    setOwn (s.presence.own.setInput (s.pins.dist i) i) (s.withPresence (s.presence.setDebounce 0 i))
  else s

/-! ## ROLL (R33) -/

/-- The fields a ROLL takes at the whole second. -/
def rollSummary (s : State) : RollSummary :=
  { role := s.straps.role
    standing := s.line.standing
    score := s.line.score
    timeState := s.clock.timeState
    grade := s.clock.grade
    edition := s.store.activeEdition
    unconsumed := s.ring.unconsumed
    kind := s.restart.lastKind }

/-! ## Received FLAG and ROLL (R28, R34) -/

/-- A good FLAG replaces the sender's wire set. -/
def ownFlag (src : Station) (payload : List Byte) (s : State) : State :=
  match parseFlag payload with
  | some w => setPeerWires src w s
  | none => s

/-- A good ROLL rewrites the sender's reported time state and replaces its wire set. -/
def ownRoll (src : Station) (payload : List Byte) (s : State) : State :=
  match parseRoll payload with
  | some r =>
    setPeerWires src r.wires
      (s.withPresence (s.presence.modifyPeer src fun e => { e with timeState := r.timeState }))
  | none => s

/-! ## Meanings -/

/-- PRESENCE_EXPIRY (R25). -/
def execPresenceExpiry (n : Station) (s : State) : Host.Outcome State Fault Refusal :=
  .next (if s.running = true ∧ silenceOver n s = true then becomeAbsent n s else s)

def execDisturbanceInputChange (i : DistInput) (active : Bool) (s : State) : Host.Outcome State Fault Refusal :=
  .next (changeInput i active s)

def execDebounceExpiry (i : DistInput) (s : State) : Host.Outcome State Fault Refusal :=
  .next (expireDebounce i s)

/-- ROLL_OFFER (R33). -/
def execRollOffer (s : State) : Host.Outcome State Fault Refusal :=
  .next
    (if s.running = true ∧ s.due.roll = true then
      offerRoll (rollSummary s) (s.withDue { s.due with roll := false })
    else s)

def execFlagReceived (src : Station) (payload : List Byte) (s : State) : Host.Outcome State Fault Refusal :=
  .next (receivePacket src (fun _ t => ownFlag src payload t) s)

def execRollReceived (src : Station) (payload : List Byte) (s : State) : Host.Outcome State Fault Refusal :=
  .next (receivePacket src (fun _ t => ownRoll src payload t) s)

end Sys2Proof.Machine
end

