-- ==== Sys2Proof/Machine/Clock.lean ====
section
/-! DEFINITION. The hut clock's commands (Section 3): the oscillator edge, own and received MARKs, the
time reference of role C. -/

namespace Sys2Proof.Machine

/-! ## Counting (R39, R41) -/

/-- The trim: rate trim and slew together. -/
def HutClock.trim (c : HutClock) : Int := c.rateTrim + c.slew

/-- How many ticks hut time advances on this edge, from A after the addition. -/
def advanceOf (a : Int) : Nat :=
  if accumulatorLimit ≤ a then 2 else if a ≤ -accumulatorLimit then 0 else 1

/-- A after the comparison. -/
def remainderOf (a : Int) : Int :=
  if accumulatorLimit ≤ a then a - accumulatorLimit
  else if a ≤ -accumulatorLimit then a + accumulatorLimit
  else a

/-- The hut clock on an oscillator edge: trim, hut time, PPS age (R41, R51). -/
def HutClock.edge (c : HutClock) : HutClock :=
  { c with
    time := c.time.add (advanceOf (c.accumulator + c.trim))
    accumulator := remainderOf (c.accumulator + c.trim)
    ppsAge := if c.ppsAge < ppsAgeLimit then c.ppsAge + 1 else ppsAgeLimit }

/-- A count that rises by one up to a limit. -/
def countUpTo (limit n : Nat) : Nat := if n < limit then n + 1 else limit

/-- A debounce count on an oscillator edge: it rises while the input holds the opposite level (R30). -/
def debounceEdge (i : DistInput) (s : State) : Nat :=
  if s.pins.dist i = s.presence.own.input i then s.presence.debounce i
  else countUpTo debounceTicks (s.presence.debounce i)

/-- The line on an oscillator edge: its counts, which rise while no packet is on it and the line is recessive
(log entry 6); the moment of a send's end is over (R150). -/
def LineInterface.edge (bit : Nat) (l : LineInterface) : LineInterface :=
  if l.activity = .waiting ∨ l.activity = .idle then
    { l with
      quiet := countUpTo (restrainedBits * bit) l.quiet, joinCount := countUpTo (joiningBits * bit) l.joinCount
      sendEnded := false }
  else { l with sendEnded := false }

/-- The supply monitor on an oscillator edge: while it holds a restart, it counts the ticks for which the
supply stays above the retention level (R164; log entry 17). -/
def RestartState.edge (r : RestartState) : RestartState :=
  if r.supplyHold = true ∧ r.supplyLow = false then
    { r with supplyTicks := countUpTo supplyTicksNeeded r.supplyTicks }
  else r

/-- What an oscillator edge counts: always the hut clock; the supply monitor during its hold; the line and
the disturbance inputs while the blocks run. It also ends the moment of the lapping writes before it (log
entry 34). -/
def edgeCounts (s : State) : State :=
  let t := ((s.withClock s.clock.edge).withRestart s.restart.edge).withRing { s.ring with lappedNow := [] }
  if s.running then
    (t.withLine (s.line.edge s.bitTime)).withPresence
      { s.presence with debounce0 := debounceEdge .door s, debounce1 := debounceEdge .heater s }
  else t

/-- The hut times that an advance of `n` ticks from `t` reaches, in order (R40). -/
def reachAll (t : HutTime) : Nat → State → State
  | 0, s => s
  | n + 1, s => reach (t.add ((n : Int) + 1)) false (reachAll t n s)

/-- An oscillator edge: count, then reach what the advance reaches. -/
def oscillate (s : State) : State :=
  reachAll s.clock.time (advanceOf (s.clock.accumulator + s.clock.trim)) (edgeCounts s)

/-! ## Own MARKs (R46) -/

/-- The mark sequence counter after one more MARK: 0 after 254. -/
def nextMarkSeq (q : BitVec 8) : BitVec 8 := if 254 ≤ q.toNat then 0#8 else q + 1#8

/-- A MARK is offered with the counter's value, and the counter advances; the number is spent even where
the LIF discards the MARK. -/
def offerOwnMark (s : State) : State :=
  offerMark s.clock.markSeq
    ((s.withDue { s.due with mark := false }).withClock { s.clock with markSeq := nextMarkSeq s.clock.markSeq })

/-! ## Received MARKs (R49, R50) -/

/-- The offset sample a MARK yields against the capture its sender's entry held (R50). -/
def offsetSample (held : Option MarkCapture) (m : MarkInfo) : Option OffsetSample :=
  match held with
  | some c =>
    if m.unset = false ∧ m.prevSeq ≠ 255#8 ∧ c.seq = m.prevSeq then some ⟨m.prev.diff c.time, m.grade⟩ else none
  | none => none

/-- The entry of a MARK's sender afterwards: reported state, sample if one was formed, capture (R49). -/
def Peer.marked (m : MarkInfo) (capture : Option HutTime) (e : Peer) : Peer :=
  { e with
    timeState := if m.unset then .unset else .set
    sample :=
      match offsetSample e.capture m with
      | some d => some d
      | none => e.sample
    capture := capture.map fun t => ⟨m.seq, t⟩ }

/-- The mark logic takes a good MARK. -/
def ownMarkLogic (src : Station) (payload : List Byte) (capture : Option HutTime) (s : State) : State :=
  match parseMark payload with
  | some m => if namesPeer src then s.withPresence (s.presence.modifyPeer src (Peer.marked m capture)) else s
  | none => s

/-! ## The time reference (R51, R52) -/

/-- The clock follows LOCK and PPS: role C, blocks running. -/
def followsReference (s : State) : Bool := s.running && decide (s.straps.role = .clock)

/-- LOCK takes a level: the lock is lost with it, and gained if the PPS age is below its limit. -/
def changeLock (active : Bool) (s : State) : State :=
  let t := s.withPins { s.pins with lock := active }
  if followsReference s then
    t.withClock { s.clock with refLocked := active && decide (s.clock.ppsAge < ppsAgeLimit) }
  else t

/-- The PPS sample of a capture's tick count: a correction to apply (R52). -/
def ppsSample (tick : Nat) : Int := if tick < 5000000 then -(tick : Int) else (10000000 : Int) - (tick : Int)

/-- The samples with one more; the ninth displaces the oldest (R52). -/
def addPpsSample (d : Int) (l : List Int) : List Int :=
  if l.length < ppsCapacity then l ++ [d] else l.tail ++ [d]

/-- A PPS rising edge: the age is 0; with LOCK active the lock is gained and a sample is added. -/
def takePps (s : State) : State :=
  if followsReference s then
    if s.pins.lock then
      s.withClock
        { s.clock with
          ppsAge := 0, refLocked := true
          ppsSamples := addPpsSample (ppsSample s.clock.time.tick) s.clock.ppsSamples }
    else s.withClock { s.clock with ppsAge := 0 }
  else s

/-! ## Meanings -/

def execOscillatorEdge (s : State) : Host.Outcome State Fault Refusal := .next (oscillate s)

/-- MARK_OFFER (R46); the mark logic offers in STRAP FAULT standing too, where the LIF discards. -/
def execMarkOffer (s : State) : Host.Outcome State Fault Refusal :=
  .next (if s.held = false ∧ s.due.mark = true then offerOwnMark s else s)

def execMarkReceived (src : Station) (payload : List Byte) (s : State) : Host.Outcome State Fault Refusal :=
  .next (receivePacket src (fun capture t => ownMarkLogic src payload capture t) s)

def execLockChange (active : Bool) (s : State) : Host.Outcome State Fault Refusal := .next (changeLock active s)

/-- PPS_AGE_EXPIRY (R51): the age has reached 2 s and the lock is lost. -/
def execPpsAgeExpiry (s : State) : Host.Outcome State Fault Refusal :=
  .next
    (if followsReference s = true ∧ ppsAgeLimit ≤ s.clock.ppsAge then
      s.withClock { s.clock with refLocked := false }
    else s)

def execPpsEdge (s : State) : Host.Outcome State Fault Refusal := .next (takePps s)

end Sys2Proof.Machine
end

