-- ==== Sys2Proof/Machine/Assembly.lean ====
section
/-! DEFINITION. The epoch assembler (Section 7): opening, contributions, the arithmetic at close, release,
the storm detector; and the commands BASE_EPOCH, FAST_EPOCH and HOLD_EXPIRY. -/

namespace Sys2Proof.Machine

/-! ## One field channel at close (R109 to R114) -/

/-- The value of a field word; INVALID has none (Figure 5-3). -/
def FieldWord.value : FieldWord → Option Int
  | .invalid => none
  | .valid v => some v
  | .fullScale v => some v

/-- The word is at FULL SCALE. -/
def FieldWord.isFullScale : FieldWord → Bool
  | .invalid => false
  | .valid _ => false
  | .fullScale _ => true

/-- The temperature chosen for a channel (R112). -/
inductive TempChoice
  | notNeeded
  | missing
  | found (temp : Int) (stale : Bool)
deriving DecidableEq, Repr

/-- A channel's contribution to a record: value, SAT mark, and the temperature members (R109 to R114). -/
structure ChannelClose where
  value       : Option Int
  sat         : Bool
  stale       : Bool
  missing     : Bool
  uncorrected : Bool
deriving DecidableEq, Repr

/-- A GAP channel: no value, no member but GAP. -/
def ChannelClose.gap : ChannelClose := ⟨none, false, false, false, false⟩

/-- A local temperature in force in set a. -/
def localTemp (a : SampleSet) (i : Nat) : TempChoice :=
  match a.temps.getD i none with
  | some t => .found t false
  | none => .missing

/-- A peer's temperature at a probe position, and whether it is older than the age limit at E. -/
def peerTemp (q : QueryEngine) (h : Header) (b : ChannelBase) (e : HutTime) : TempChoice :=
  match q.heldTemps b.station with
  | none => .missing
  | some held =>
    if b.probe = 0 then .missing
    else
      match held.temps[b.probe - 1]? with
      | none => .missing
      | some t =>
        if t = noTemp then .missing
        else .found t (decide ((h.ageLimit : Int) * (ticksPerSecond : Int) < e.diff held.arrival))

/-- The temperature stage (R112). -/
def chooseTemp (q : QueryEngine) (set : CorrectionSet) (b : ChannelBase) (a : SampleSet) (e : HutTime) : TempChoice :=
  if b.source = .none ∨ b.pointCount = 0 then .notNeeded
  else
    match b.source with
    | .none => .notNeeded
    | .localTS => localTemp a 0
    | .localTE => localTemp a 1
    | .peer => peerTemp q set.header b e

/-- A coefficient at temperature `t` from points of rising temperature (R113): the end points' value
outside, and between two points the quotient rounded to nearest. -/
def coefficient (sel : Point → Int) (t : Int) : List Point → Int
  | [] => 0
  | [p] => sel p
  | p :: q :: rest =>
    if t ≤ p.temp then sel p
    else if t < q.temp then sel p + divRound ((sel q - sel p) * (t - p.temp)) (q.temp - p.temp)
    else coefficient sel t (q :: rest)

/-- A corrected value held within its bound, and whether it reached it (R114). -/
def saturate (v : Int) : Int × Bool :=
  if fieldLimit ≤ v then (fieldLimit, true) else if v ≤ -fieldLimit then (-fieldLimit, true) else (v, false)

/-- The interpolated count (R110): the rounding falls on the quotient. -/
def interpolate (va vb : Int) (ta tb e : HutTime) : Int :=
  va + divRound ((vb - va) * e.diff ta) (tb.diff ta)

/-- The correction of a scaled value by the chosen temperature (R112 to R114). -/
def correct (ch : Channel) (f : Int) (t : Int) : Int :=
  let pts := ch.points.take ch.base.pointCount
  f + divRound (f * coefficient Point.scale t pts) 1000000 + coefficient Point.offset t pts

/-- A channel with values in both sets, after bracketing (R110 to R114). -/
def finishChannel (q : QueryEngine) (set : CorrectionSet) (ch : Channel) (a b : SampleSet) (e : HutTime)
    (va vb : Int) (full : Bool) : ChannelClose :=
  let f := divRound (interpolate va vb a.capture b.capture e * (ch.base.gain : Int)) 65536
  match chooseTemp q set ch.base a e with
  | .notNeeded =>
    { value := some (saturate f).1, sat := full || (saturate f).2, stale := false, missing := false, uncorrected := true }
  | .missing =>
    { value := some (saturate f).1, sat := full || (saturate f).2, stale := false, missing := true, uncorrected := false }
  | .found t stale =>
    { value := some (saturate (correct ch f t)).1, sat := full || (saturate (correct ch f t)).2
      stale := stale, missing := false, uncorrected := false }

/-- Channel number `i` (from 0) of an entry with its bracket (R109 to R114). -/
def closeChannel (q : QueryEngine) (set : CorrectionSet) (bracket : Option Bracket) (e : HutTime) (i : Nat) : ChannelClose :=
  match bracket with
  | none => .gap
  | some ⟨none, _⟩ => .gap
  | some ⟨some a, b⟩ =>
    match (a.fields.getD i .invalid).value, (b.fields.getD i .invalid).value with
    | some va, some vb =>
      if gapTicks < b.capture.diff a.capture then .gap
      else
        match set.channels[i]? with
        | none => .gap
        | some ch =>
          finishChannel q set ch a b e va vb
            ((a.fields.getD i .invalid).isFullScale || (b.fields.getD i .invalid).isFullScale)
    | _, _ => .gap

/-! ## deltaF (R116) -/

/-- deltaF and its DF_SAT mark from F_s and the recorded X, Y, Z. -/
def deltaOf (fs : Int) (x y z : Int) : Int × Bool :=
  let d := fs - (nearestRoot (x * x + y * y + z * z).toNat : Int)
  if deltaLimit ≤ d then (deltaLimit, true) else if d ≤ -deltaLimit then (-deltaLimit, true) else (d, false)

/-- deltaF of an entry of role V: a base record with X, Y, Z and a contribution for E with F_s present. -/
def entryDelta (role : Role) (e : Entry) (slots : List (Option Int)) : Option (Int × Bool) :=
  if role = .vector ∧ e.kind = .base then
    match e.contribution, slots.getD 0 none, slots.getD 1 none, slots.getD 2 none with
    | some ⟨t, some fs⟩, some x, some y, some z => if t = e.instant then some (deltaOf fs x y z) else none
    | _, _, _, _ => none
  else none

/-! ## The close of an entry (R107, R115, R117, R171) -/

/-- The newest set in the history whose capture is at or before an instant. -/
def newestAtOrBefore (e : HutTime) (history : List SampleSet) : Option SampleSet :=
  (history.filter fun x => !x.capture.later e).getLast?

/-- The bracket span: t_b - t_a held at 16,777,215; 0 without a bracket or a set a (R171). -/
def bracketSpan : Option Bracket → Nat
  | some ⟨some a, b⟩ => min spanLimit (b.capture.diff a.capture).toNat
  | some ⟨none, _⟩ => 0
  | none => 0

/-- What a role T entry records (R115): the probes' temperatures in force in the newest set at or before E. -/
def closeThermal (history : List SampleSet) (e : Entry) (cause : CloseCause) : Closed :=
  let temps :=
    match newestAtOrBefore e.instant history with
    | some x => (List.range 4).map fun i => x.temps.getD i none
    | none => List.replicate 4 none
  { cause := cause
    slots := temps
    deltaF := none
    quality := ⟨slotMembers (temps.map Option.isNone), 0#4, false, false, false, e.step, decide (e.timeState = .unset), false⟩
    span := 0 }

/-- What a role V or S entry records (R109 to R117). -/
def closeField (role : Role) (q : QueryEngine) (set : CorrectionSet) (e : Entry) (cause : CloseCause) : Closed :=
  let chans := (List.range (fieldChannels role)).map (closeChannel q set e.bracket e.instant)
  let slots := (List.range 4).map fun i => (chans[i]?).bind ChannelClose.value
  let delta := entryDelta role e slots
  { cause := cause
    slots := slots
    deltaF := delta.map Prod.fst
    quality :=
      { gap := slotMembers (chans.map fun c => c.value.isNone)
        sat := slotMembers (chans.map ChannelClose.sat)
        tempStale := chans.any ChannelClose.stale
        tempMissing := chans.any ChannelClose.missing
        uncorrected := chans.any ChannelClose.uncorrected
        step := e.step
        unset := decide (e.timeState = .unset)
        dfSat := (delta.map Prod.snd).getD false }
    span := bracketSpan e.bracket }

/-- The close of an entry computes from what it holds, with the set of its edition (R96, R107). -/
def closeWith (s : State) (cause : CloseCause) (e : Entry) : Closed :=
  if s.straps.role = .thermal then closeThermal s.port.history e cause
  else closeField s.straps.role s.query (s.store.setFor e.edition) e cause

/-- An OPEN entry closes; a closed one stays as it is. -/
def closeEntry (s : State) (cause : CloseCause) (e : Entry) : Entry :=
  match e.closed with
  | some _ => e
  | none => { e with closed := some (closeWith s cause e) }

/-- Every awaited contribution is present (R104, R107). -/
def Entry.isComplete (role : Role) (e : Entry) : Bool :=
  match role with
  | .vector => e.bracket.isSome && (e.scalarSource.isNone || e.contribution.isSome)
  | .scalar => e.bracket.isSome && (e.scalarSource.isNone || e.contribution.isSome)
  | .thermal => true
  | .clock => true

/-! ## The storm detector (R118) -/

/-- The magnitudes of change of a record's field values against the reference. -/
def changes (values reference : List Int) : List Nat := (values.zip reference).map fun p => (p.1 - p.2).natAbs

/-- The judgment of one base record without a GAP against reference values, H greater than 0: the detector
afterwards, and the event handed to the presence block. -/
def judge (h : Nat) (d : StormDetector) (deltas : List Nat) : StormDetector × Option Bool :=
  if d.asserted then
    if deltas.all fun x => decide ((x : Int) < divRound h 2) then
      if d.quiet + 1 = quietRecords then ({ d with asserted := false, onset := 0, quiet := 0 }, some false)
      else ({ d with quiet := d.quiet + 1 }, none)
    else ({ d with quiet := 0 }, none)
  else if deltas.any fun x => decide (h ≤ x) then
    if d.onset + 1 = onsetRecords then ({ d with asserted := true, onset := 0, quiet := 0 }, some true)
    else ({ d with onset := d.onset + 1 }, none)
  else ({ d with onset := 0 }, none)

/-- The field values of a record, if no field channel is GAP. -/
def fieldValues (role : Role) (slots : List (Option Int)) : Option (List Int) :=
  (slots.take (fieldChannels role)).mapM id

/-- The detector's event goes to the presence block. -/
def handStorm (event : Option Bool) (s : State) : State :=
  match event with
  | some b => setOwnStorm b s
  | none => s

/-- The storm detector takes a base record's values at release (R118). -/
def stormRecord (slots : List (Option Int)) (s : State) : State :=
  match fieldValues s.straps.role slots with
  | none => s
  | some values =>
    let d := s.assembler.storm
    match d.reference with
    | none => s.withAssembler { s.assembler with storm := { d with reference := some values } }
    | some ref =>
      let h := s.store.active.header.stormThreshold
      if h = 0 then s.withAssembler { s.assembler with storm := { d with reference := some values } }
      else
        let out := judge h d (changes values ref)
        handStorm out.2 (s.withAssembler { s.assembler with storm := { out.1 with reference := some values } })

/-! ## Release (R108, R136) -/

/-- The epoch record of a closed entry (Figure 9-1). -/
def recordContent (e : Entry) (c : Closed) : RecordContent :=
  .epoch
    { kind := e.kind, instant := e.instant, edition := e.edition, wires := e.wires, grade := e.grade
      quality := c.quality, slots := c.slots, deltaF := c.deltaF, cause := c.cause, span := c.span }

/-- The store drops the outgoing set once no entry of its edition is left (R96, R121). -/
def dropOutgoing (released : BitVec 16) (rest : List Entry) (s : State) : State :=
  match s.store.outgoing with
  | some o =>
    if released = o.edition ∧ (rest.all fun e => decide (e.edition ≠ o.edition)) = true then
      s.withStore { s.store with outgoing := none }
    else s
  | none => s

/-- The node's own TEMP with the last valid local temperatures (R134). -/
def ownTemp (s : State) : TempPacket := ⟨s.straps.role, s.port.lastTemps⟩

/-- What follows the ring's write at the release of a base record: storm detector and OBS in roles V and
S, TEMP in role T (R108). -/
def afterBase (c : Closed) (r : Record) (s : State) : State :=
  match s.straps.role with
  | .vector => offerObs (.record r) (stormRecord c.slots s)
  | .scalar => offerObs (.record r) (stormRecord c.slots s)
  | .thermal => offerTemp (ownTemp s) s
  | .clock => s

/-- One entry is released; `rest` is the queue behind it (R108). -/
def releaseOne (e : Entry) (c : Closed) (rest : List Entry) (s : State) : State :=
  let t := ringWrite (recordContent e c) (s.withAssembler { s.assembler with queue := rest })
  dropOutgoing e.edition rest
    (if e.kind = .base then afterBase c (s.recordOf (recordContent e c)) t else t)

/-- Closed entries at the head are released in turn, up to the first OPEN one. -/
def releaseFrom : List Entry → State → State
  | [], s => s
  | e :: rest, s =>
    match e.closed with
    | none => s
    | some c => releaseFrom rest (releaseOne e c rest s)

/-- The assembler closes the entries of its queue that `due` names and releases what qualifies (R107, R108). -/
def closeAndRelease (due : Entry → Bool) (cause : CloseCause) (s : State) : State :=
  let q := s.assembler.queue.map fun e => if due e then closeEntry s cause e else e
  releaseFrom q (s.withAssembler { s.assembler with queue := q })

/-- Entries that have all they await close complete. -/
def closeComplete (s : State) : State := closeAndRelease (fun e => e.isComplete s.straps.role) .complete s

/-! ## Opening (R101, R104, R106) -/

/-- The scalar source an entry awaits: a base entry of role V, if the active set names one (R104). -/
def awaitedScalar (kind : EpochKind) (s : State) : Option Station :=
  if s.straps.role = .vector ∧ kind = .base ∧ s.store.active.header.scalarSource ≠ 0#5 then
    some s.store.active.header.scalarSource
  else none

/-- The contribution an entry finds at its opening in the OBS subscription entry (R106). -/
def contributionAtOpening (e : HutTime) (source : Option Station) (s : State) : Option ScalarObs :=
  match source with
  | none => none
  | some n =>
    match s.query.heldObs n with
    | some o => if o.instant = e then some o else none
    | none => none

/-- The entry that opens for an epoch instant (Figure 7-3). -/
def newEntry (kind : EpochKind) (e : HutTime) (s : State) : Entry :=
  { instant := e
    kind := kind
    edition := s.store.activeEdition
    wires := s.presence.wireOr
    grade := s.clock.grade
    timeState := s.clock.timeState
    step := s.assembler.stepMark
    scalarSource := awaitedScalar kind s
    bracket := none
    contribution := contributionAtOpening e (awaitedScalar kind s) s
    closed := none }

/-- E is later than the last opened epoch, or there is none (R101). -/
def opensFor (e : HutTime) (s : State) : Bool :=
  match s.assembler.lastOpened with
  | none => true
  | some t => e.later t

/-- The epoch instant E is reached: an entry opens if E is later than the last opened epoch (R101). An
opening always finds room (R103); one that did not would open nothing (log entry 22). Role T's entry
closes at once (R104). -/
def openEpoch (kind : EpochKind) (e : HutTime) (s : State) : State :=
  if opensFor e s = true ∧ s.assembler.queue.length < queueCapacity then
    closeComplete
      (s.withAssembler
        { s.assembler with
          queue := s.assembler.queue ++ [newEntry kind e s], lastOpened := some e, stepMark := false })
  else s

/-! ## Contributions (R105, R106) -/

/-- An open entry of role V or S without a bracket whose instant precedes the arrived set takes its bracket. -/
def takeBracket (history : List SampleSet) (b : SampleSet) (e : Entry) : Entry :=
  if e.closed = none ∧ e.bracket = none ∧ b.capture.later e.instant = true then
    { e with bracket := some ⟨newestAtOrBefore e.instant history, b⟩ }
  else e

/-- A conversion set has arrived (R105); the history holds it already (R73). -/
def setArrived (b : SampleSet) (s : State) : State :=
  match s.straps.role with
  | .vector =>
    closeComplete (s.withAssembler { s.assembler with queue := s.assembler.queue.map (takeBracket s.port.history b) })
  | .scalar =>
    closeComplete (s.withAssembler { s.assembler with queue := s.assembler.queue.map (takeBracket s.port.history b) })
  | .thermal => s
  | .clock => s

/-- A scalar OBS becomes the contribution of the open entry with its instant and its station (R106). -/
def takeScalar (station : Station) (o : ScalarObs) (e : Entry) : Entry :=
  if e.closed = none ∧ e.instant = o.instant ∧ e.scalarSource = some station then { e with contribution := some o } else e

/-- A scalar OBS is handed over (R106). -/
def scalarArrived (station : Station) (o : ScalarObs) (s : State) : State :=
  closeComplete (s.withAssembler { s.assembler with queue := s.assembler.queue.map (takeScalar station o) })

/-! ## The step at the assembler (R119, R120) -/

/-- A step: every open entry closes and all are released; the step mark is set; the storm counts and
reference go; the cadence is BASE unless the step lands on a whole second (R100). -/
def assemblerStep (landing : HutTime) (s : State) : State :=
  if s.straps.role = .clock then s
  else
    let t := closeAndRelease (fun _ => true) .step s
    t.withAssembler
      { t.assembler with
        stepMark := true
        storm := { t.assembler.storm with onset := 0, quiet := 0, reference := none }
        cadence := if landing.isWhole then t.assembler.cadence else .base }

/-! ## Meanings -/

/-- The first open entry of the queue whose hold has run out (R107). -/
def holdOver (now : HutTime) (q : List Entry) : Option HutTime :=
  (q.find? fun e => decide (e.closed = none) && decide (holdTicks ≤ now.diff e.instant)).map Entry.instant

/-- BASE_EPOCH (R99): the cadence is read from the wire OR, then the base entry opens. A promotion of the
same second comes first (R94, R102; log entry 4). -/
def takeBaseEpoch (s : State) : State :=
  if s.running = true ∧ s.due.base = true ∧ s.due.promote = false then
    openEpoch .base s.due.second
      ((s.withDue { s.due with base := false }).withAssembler
        { s.assembler with cadence := if s.presence.wireOr.storm then .storm else .base })
  else s

/-- FAST_EPOCH (R99). -/
def takeFastEpoch (s : State) : State :=
  match s.due.fast with
  | some e => if s.running then openEpoch .fast e (s.withDue { s.due with fast := none }) else s
  | none => s

/-- HOLD_EXPIRY (R107): the oldest open entry whose hold has run out closes with what it holds. -/
def expireHold (s : State) : State :=
  if s.running then
    match holdOver s.clock.time s.assembler.queue with
    | some e => closeAndRelease (fun x => decide (x.instant = e)) .hold s
    | none => s
  else s

def execBaseEpoch (s : State) : Host.Outcome State Fault Refusal := .next (takeBaseEpoch s)

def execFastEpoch (s : State) : Host.Outcome State Fault Refusal := .next (takeFastEpoch s)

def execHoldExpiry (s : State) : Host.Outcome State Fault Refusal := .next (expireHold s)

end Sys2Proof.Machine
end

