-- ==== Sys2Proof/Machine/Sample.lean ====
section
/-! DEFINITION. The sample port (Section 5): SYNC, data bits, the completion of a conversion set. -/

namespace Sys2Proof.Machine

/-- Words of a conversion set (Figure 5-1): field channels first, then temperature channels. -/
def wordsPerSet (r : Role) : Nat := fieldChannels r + tempChannels r

/-! ## Word codes (R74, R75) -/

/-- A field word decoded (Figure 5-3). -/
def decodeField (w : BitVec 24) : FieldWord :=
  if w.toInt = -8388608 then .invalid
  else if w.toInt = -8388607 ∨ w.toInt = 8388607 then .fullScale w.toInt
  else .valid w.toInt

/-- A temperature word decoded: -8,388,608 is invalid, any other clamped to -5,000 to +8,000. -/
def decodeTemp (w : BitVec 24) : Option Int :=
  if w.toInt = -8388608 then none else some (clampInt (-5000) 8000 w.toInt)

/-- The last valid temperatures after a set: a valid word replaces its channel's, an invalid one leaves it. -/
def mergeTemps (words last : List (Option Int)) : List (Option Int) :=
  (last.zip words).map fun p => p.2.or p.1

/-! ## Assembling (R71, R72) -/

/-- The open set with one more data bit; the 24th completes the word. -/
def OpenSet.push (o : OpenSet) (bit : Bool) : OpenSet :=
  let w : BitVec 24 := (o.shift <<< 1) ||| BitVec.ofNat 24 bit.toNat
  if o.bits + 1 = 24 then { o with words := o.words ++ [w], bits := 0, shift := 0#24 }
  else { o with bits := o.bits + 1, shift := w }

/-- The set is complete: the role's words have been taken (R69). -/
def OpenSet.complete (o : OpenSet) (r : Role) : Bool := decide (wordsPerSet r ≤ o.words.length)

/-- The decoded set (R73, step 2), with each temperature channel's temperature in force (R75). -/
def decodeSet (r : Role) (last : List (Option Int)) (o : OpenSet) : SampleSet :=
  { capture := o.capture
    fields := (o.words.take (fieldChannels r)).map decodeField
    temps := mergeTemps ((o.words.drop (fieldChannels r)).map decodeTemp) last }

/-- The history with a new newest set; the ninth displaces the oldest (R76). -/
def enterHistory (x : SampleSet) (h : List SampleSet) : List SampleSet :=
  if h.length < historyCapacity then h ++ [x] else h.tail ++ [x]

/-- The order check (R73, step 1): a capture not later than the newest set's is discarded. -/
def passesOrder (t : HutTime) (h : List SampleSet) : Bool :=
  match h.getLast? with
  | some x => t.later x.capture
  | none => true

/-- A set completes (R73): order check, decoding, entry, last valid temperatures, hand-over. -/
def completeSet (o : OpenSet) (s : State) : State :=
  let t := s.withPort { s.port with openSet := none }
  if passesOrder o.capture s.port.history then
    let x := decodeSet s.straps.role s.port.lastTemps o
    setArrived x (t.withPort { t.port with history := enterHistory x s.port.history, lastTemps := x.temps })
  else t

/-- A rising edge of the serial clock (Figure 5-2): in AWAITING SYNC the bit is surplus; in ASSEMBLING it
joins the word in progress, and the set's last bit completes the set. -/
def takeBit (bit : Bool) (s : State) : State :=
  match s.port.openSet with
  | none => s
  | some o =>
    if (o.push bit).complete s.straps.role then completeSet (o.push bit) s
    else s.withPort { s.port with openSet := some (o.push bit) }

/-- The next data bit is the last of the open set (R71). -/
def lastBitNext (s : State) : Bool :=
  match s.port.openSet with
  | none => false
  | some o => (o.push false).complete s.straps.role

/-- A rising edge of SYNC (R70 to R72): an open set is discarded as partial and PARTIAL set; a new set
opens with this edge's capture. -/
def takeSync (s : State) : State :=
  if s.running then
    (s.withPort { s.port with openSet := some ⟨s.clock.time, [], 0, 0#24⟩ }).withConditions
      { s.conditions with partialSet := s.conditions.partialSet || s.port.openSet.isSome }
  else s

/-! ## Meanings -/

def execSyncEdge (s : State) : Host.Outcome State Fault Refusal := .next (takeSync s)

def execSerialClockEdge (bit : Bool) (s : State) : Host.Outcome State Fault Refusal :=
  .next (if s.running then takeBit bit s else s)

/-- CONVERSION_SET_COMPLETE (R73): the edge that brings the set's last bit (log entry 26). -/
def execConversionSetComplete (bit : Bool) (s : State) : Host.Outcome State Fault Refusal :=
  .next (if s.running = true ∧ lastBitNext s = true then takeBit bit s else s)

end Sys2Proof.Machine
end

