-- ==== Sys2Proof/Machine/Agreement.lean ====
section
/-! DEFINITION. Time agreement (Section 4): the round end, its candidates and correction, and the step
(R44) that it may order. -/

namespace Sys2Proof.Machine

/-! ## Whose samples count (R58 to R61) -/

/-- The fresh samples: of PRESENT peers reported SET (R58). -/
def freshSamples (p : PresenceBlock) : List OffsetSample :=
  p.peers.filterMap fun e => if e.presence = .present ∧ e.timeState = .set then e.sample else none

/-- The lowest grade among samples; 7 when there is none. -/
def lowestGrade (l : List OffsetSample) : Nat := l.foldr (fun d g => min d.grade g) 7

/-- The case a round end takes (R59 to R61). -/
inductive RoundCase
  | reference
  | peer
  | noSamples
deriving DecidableEq, Repr

/-- The case: reference for a role C node SET and locked with PPS samples, peer with a fresh sample. -/
def roundCase (s : State) : RoundCase :=
  if s.straps.role = .clock ∧ s.clock.timeState = .set ∧ s.clock.refLocked = true ∧ s.clock.ppsSamples ≠ [] then
    .reference
  else if freshSamples s.presence ≠ [] then .peer
  else .noSamples

/-- The grade the round end writes. -/
def roundGrade (s : State) : Nat :=
  match roundCase s with
  | .reference => 0
  | .peer => min 7 (lowestGrade (freshSamples s.presence) + 1)
  | .noSamples => 7

/-- The candidates: the PPS samples; the fresh samples of the lowest grade, at grade 7 together with the
node's own 0; none. -/
def candidates (s : State) : List Int :=
  match roundCase s with
  | .reference => s.clock.ppsSamples
  | .peer =>
    let fresh := freshSamples s.presence
    let g := lowestGrade fresh
    ((fresh.filter fun d => decide (d.grade = g)).map OffsetSample.offset) ++ (if g = 7 then [0] else [])
  | .noSamples => []

/-! ## The correction (R62) -/

/-- The sum of integers. -/
def sumInt (l : List Int) : Int := l.foldr (· + ·) 0

/-- The greatest of a list that begins with `x`. -/
def greatest (x : Int) (l : List Int) : Int := l.foldr max x

/-- The least of a list that begins with `x`. -/
def least (x : Int) (l : List Int) : Int := l.foldr min x

/-- The correction c: from 4 candidates on, without one greatest and one least; the mean rounded to
nearest (R62). No candidate gives 0. -/
def correction : List Int → Int
  | [] => 0
  | x :: rest =>
    let n : Nat := rest.length + 1
    if 4 ≤ n then
      divRound (sumInt (x :: rest) - greatest x rest - least x rest) ((n : Int) - 2)
    else divRound (sumInt (x :: rest)) (n : Int)

/-- The slew that removes c over one round: c times 12.5, rounded, clamped (R65, R42). -/
def slewFor (c : Int) : Int := clampInt (-trimLimit) trimLimit (divRound (c * 25) 2)

/-- The rate trim adjusted by c times 3.125, rounded, the sum clamped (R65, R42). -/
def trimFor (rateTrim c : Int) : Int := clampInt (-trimLimit) trimLimit (rateTrim + divRound (c * 25) 8)

/-! ## Rounds (R56) -/

/-- A new round begins: its begin time is recorded; every peer's offset sample and the PPS samples go. -/
def beginRound (s : State) : State :=
  ((s.withEngine { s.engine with roundBegin := s.clock.time }).withClock { s.clock with ppsSamples := [] }).withPresence
    { s.presence with peers := s.presence.peers.map fun e => { e with sample := none } }

/-! ## The step (R44) -/

/-- The clock's own part: hut time moves by c, A and the slew are 0, captures and PPS samples go. -/
def HutClock.stepped (c : Int) (k : HutClock) : HutClock :=
  { k with time := k.time.add c, accumulator := 0, slew := 0, ownMark := none, ppsSamples := [] }

/-- A peer entry at a step: the mark capture goes, a PRESENT entry's last-heard time moves by c (R26). -/
def Peer.stepped (c : Int) (e : Peer) : Peer :=
  { e with
    capture := none
    lastHeard := if e.presence = .present then e.lastHeard.map fun t => t.add c else e.lastHeard }

/-- A subscription entry at a step: a HELD TEMP entry's arrival time moves by c (R127). -/
def Subscription.stepped (c : Int) (e : Subscription) : Subscription :=
  match e.content with
  | .temp (some h) => { e with content := .temp (some { h with arrival := h.arrival.add c }) }
  | .temp none => e
  | .obs _ => e

/-- The query engine at a step (R127). -/
def QueryEngine.stepped (c : Int) (q : QueryEngine) : QueryEngine :=
  { q with
    subs := q.subs.map (Subscription.stepped c)
    queries := q.queries.map fun p => { p with issue := p.issue.add c } }

/-- A step by c, one event (R44): the clock; line interface, presence block and sample port; the
assembler, which reads subscriptions as they stood (log entry 10); the ring's STEP note; STEPPED; the
agreement engine's new round; the query engine. It reaches the hut time it lands on, and nothing else of
the second it leaves (R40). -/
def stepClock (c : Int) (s : State) : State :=
  let landing := s.clock.time.add c
  let s1 := s.withClock (s.clock.stepped c)
  let s2 := s1.withLine { s1.line with activity := s1.line.activity.withoutCapture }
  let s3 := s2.withPresence { s2.presence with peers := s2.presence.peers.map (Peer.stepped c) }
  let s4 := s3.withPort { s3.port with openSet := none, history := [] }
  let s5 := assemblerStep landing s4
  let s6 := writeNote (.step c) s5
  let s7 := s6.withConditions { s6.conditions with stepped := true }
  let s8 := beginRound s7
  let s9 := s8.withQuery (s8.query.stepped c)
  reach landing true (s9.withDue .clear)

/-! ## The round end (R63 to R67) -/

/-- The round end's order to the clock, from the time state before it, whether it had candidates, and c. -/
inductive RoundOrder
  | step (c : Int)
  | slew (slew rateTrim : Int)
deriving DecidableEq, Repr

/-- An UNSET node joins by a step of any size but 0, or founds; a SET node steps from 1 ms on, else
slews, or holds over without candidates (R63 to R66). -/
def roundOrder (s : State) : RoundOrder :=
  let c := correction (candidates s)
  match s.clock.timeState with
  | .unset => if c = 0 then .slew 0 s.clock.rateTrim else .step c
  | .set =>
    if candidates s = [] then .slew 0 s.clock.rateTrim
    else if stepThreshold ≤ (c.natAbs : Int) then .step c
    else .slew (slewFor c) (trimFor s.clock.rateTrim c)

/-- What the round end writes before its order: grade, time state SET, last correction, last round-end
second (R67, steps 3 to 5). -/
def roundWrites (s : State) : State :=
  ((s.withClock { s.clock with grade := roundGrade s, timeState := .set }).withEngine
    { s.engine with lastRoundEnd := some s.due.second.sec, lastCorrection := correction (candidates s) }).withDue
    { s.due with roundEnd := false }

/-- The round end (R67): case and candidates, the writes, the order, the new round. -/
def takeRoundEnd (s : State) : State :=
  match roundOrder s with
  | .step c => stepClock c (roundWrites s)
  | .slew x r =>
    let t := roundWrites s
    beginRound (t.withClock { t.clock with slew := x, rateTrim := r })

/-! ## Meaning -/

def execRoundEnd (s : State) : Host.Outcome State Fault Refusal :=
  .next (if s.running = true ∧ s.due.roundEnd = true then takeRoundEnd s else s)

end Sys2Proof.Machine
end

