-- ==== Sys2Proof/Machine/Query.lean ====
section
/-! DEFINITION. The subscription and query engine (Section 8): its tables, arrivals, own queries, answers
and publication. -/

namespace Sys2Proof.Machine

/-! ## The subscription table (R123, R124) -/

/-- The entry is of class TEMP. -/
def Subscription.isTemp (e : Subscription) : Bool :=
  match e.content with
  | .temp _ => true
  | .obs _ => false

/-- Two entries have the same station and class. -/
def Subscription.sameKey (a b : Subscription) : Bool := decide (a.station = b.station) && a.isTemp == b.isTemp

/-- The stations that channels name as PEER sources, in channel order, each once (R124). -/
def peerStations : List Channel → List Station → List Station
  | [], acc => acc
  | c :: rest, acc =>
    if c.base.source = .peer ∧ acc.contains c.base.station = false then peerStations rest (acc ++ [c.base.station])
    else peerStations rest acc

/-- The table a set gives, every entry EMPTY (R124). -/
def buildSubs (set : CorrectionSet) : List Subscription :=
  (peerStations set.channels []).map (fun n => (⟨n, .temp none⟩ : Subscription))
    ++ (if set.header.scalarSource = 0#5 then [] else [⟨set.header.scalarSource, .obs none⟩])

/-- A new entry takes over the content of the old entry with its station and class (R124). -/
def carryOver (old : List Subscription) (e : Subscription) : Subscription :=
  match old.find? fun o => o.sameKey e with
  | some o => o
  | none => e

/-- The number, from 1, of the entry with a station and class; absent when there is none. -/
def entryNumber (e : Subscription) (table : List Subscription) : Option Nat :=
  (table.findIdx? fun o => o.sameKey e).map (· + 1)

/-- A pending query's subscription index after a rebuild; absent when its entry is dropped. -/
def newIndex (old new : List Subscription) (q : PendingQuery) : Option Nat :=
  match old[q.index - 1]? with
  | some e => entryNumber e new
  | none => none

/-- A rebuild from a new active set (R124): recurring entries keep their content, queries of dropped
entries are retired with their waiting ASKs, and the others follow their entries. -/
def rebuildSubs (set : CorrectionSet) (s : State) : State :=
  let old := s.query.subs
  let new := buildSubs set
  let t := retireQueries (fun q => (newIndex old new q).isNone) s
  t.withQuery
    { t.query with
      subs := new.map (carryOver old)
      queries := t.query.queries.map fun q => { q with index := (newIndex old new q).getD q.index } }

/-! ## Arrivals (R125, R126, R131) -/

/-- The temperatures of a station's TEMP entry are replaced (R125). -/
def holdTemps (p : Subscription → Bool) (temps : List Int) (now : HutTime) (subs : List Subscription) : List Subscription :=
  subs.map fun e => if p e = true ∧ e.isTemp = true then { e with content := .temp (some ⟨temps, now⟩) } else e

/-- A good TEMP: a station's TEMP entry takes it (R125). -/
def ownTempArrival (src : Station) (payload : List Byte) (s : State) : State :=
  match parseTemp payload with
  | some temps =>
    s.withQuery { s.query with subs := holdTemps (fun e => decide (e.station = src)) temps s.clock.time s.query.subs }
  | none => s

/-- The station has an OBS entry. -/
def hasObsEntry (src : Station) (subs : List Subscription) : Bool :=
  subs.any fun e => decide (e.station = src) && !e.isTemp

/-- A good OBS: a role S base record from the scalar source replaces the OBS entry's content and is
handed to the assembler (R126). -/
def ownObs (src : Station) (payload : List Byte) (s : State) : State :=
  match parseObs payload with
  | some (.record .scalar o) =>
    if hasObsEntry src s.query.subs then
      scalarArrived src o
        (s.withQuery
          { s.query with
            subs := s.query.subs.map fun e =>
              if e.station = src ∧ e.isTemp = false then { e with content := .obs (some o) } else e })
    else s
  | some (.record .vector _) => s
  | some (.record .thermal _) => s
  | some (.record .clock _) => s
  | some .fence => s
  | none => s

/-- The pending query that a REPLY from a station answers: same target, tag and question (R131). -/
def answers (src : Station) (r : ReplyInfo) (q : PendingQuery) : Bool :=
  decide (q.target = src ∧ q.tag.toNat = r.tag.toNat ∧ r.question = qTempNow)

/-- A temperature list is written into the entry of a number (R131). -/
def holdTempsAt (index : Nat) (temps : List Int) (now : HutTime) (subs : List Subscription) : List Subscription :=
  subs.modify (index - 1) fun e => if e.isTemp then { e with content := .temp (some ⟨temps, now⟩) } else e

/-- A good REPLY to this node is matched against the pending queries (R131). The query it answers is
retired, and its ASK removed should it still wait (R18). -/
def ownReply (src : Station) (payload : List Byte) (s : State) : State :=
  match parseReply payload with
  | none => s
  | some r =>
    if r.asker.toNat = s.straps.station.toNat then
      match s.query.queries.find? (answers src r) with
      | none => s
      | some q =>
        retireQueries (answers src r)
          (s.withQuery
            { s.query with
              subs :=
                match r.temps with
                | some temps => holdTempsAt q.index temps s.clock.time s.query.subs
                | none => s.query.subs })
    else s

/-! ## Own queries (R128 to R130) -/

/-- The first tag, going up from the counter, that no pending query carries; `n` tries (R128). -/
def freeTag (queries : List PendingQuery) : Nat → BitVec 4 → BitVec 4
  | 0, t => t
  | n + 1, t => if queries.any fun q => decide (q.tag = t) then freeTag queries n (t + 1#4) else t

/-- A TEMP entry is aged: EMPTY, or older than the age limit (R129). -/
def isAged (ageLimit : Nat) (now : HutTime) (e : Subscription) : Bool :=
  match e.content with
  | .temp none => true
  | .temp (some h) => decide ((ageLimit : Int) * (ticksPerSecond : Int) < now.diff h.arrival)
  | .obs _ => false

/-- The conditions of R129 for the entry of a number. -/
def shouldAsk (index : Nat) (e : Subscription) (s : State) : Bool :=
  isAged s.store.active.header.ageLimit s.clock.time e
    && !(s.query.queries.any fun q => decide (q.index = index))
    && decide ((s.presence.peer e.station).presence = .present)
    && s.speaks && decide (s.query.queries.length < askCapacity)

/-- A query is issued for an entry: tag, pending query, ASK (R128, R129). -/
def issueQuery (index : Nat) (e : Subscription) (s : State) : State :=
  let tag := freeTag s.query.queries 16 s.query.tagCounter
  offerAsk ⟨e.station, tag⟩
    (s.withQuery
      { s.query with
        queries := s.query.queries ++ [⟨tag, e.station, index, s.clock.time⟩], tagCounter := tag + 1#4 })

/-- The entries are considered in order, numbered from `index` (R129). -/
def considerFrom : Nat → List Subscription → State → State
  | _, [], s => s
  | index, e :: rest, s => considerFrom (index + 1) rest (if shouldAsk index e s then issueQuery index e s else s)

/-- A pending query's time has run out (R130). -/
def queryOver (tag : BitVec 4) (s : State) : Bool :=
  s.query.queries.any fun q => decide (q.tag = tag ∧ queryTicks ≤ s.clock.time.diff q.issue)

/-- The timeout: the query is retired, its waiting ASK removed, QUERY_TIMEOUT set (R130). -/
def timeOutQuery (tag : BitVec 4) (s : State) : State :=
  let t := retireQueries (fun q => decide (q.tag = tag)) s
  t.withConditions { t.conditions with queryTimeout := true }

/-! ## Meanings -/

def execTempReceived (src : Station) (payload : List Byte) (s : State) : Host.Outcome State Fault Refusal :=
  .next (receivePacket src (fun _ t => ownTempArrival src payload t) s)

def execObsReceived (src : Station) (payload : List Byte) (s : State) : Host.Outcome State Fault Refusal :=
  .next (receivePacket src (fun _ t => ownObs src payload t) s)

def execReplyReceived (src : Station) (payload : List Byte) (s : State) : Host.Outcome State Fault Refusal :=
  .next (receivePacket src (fun _ t => ownReply src payload t) s)

/-- QUERY_CONSIDERATION (R129). -/
def execQueryConsideration (s : State) : Host.Outcome State Fault Refusal :=
  .next
    (if s.running = true ∧ s.due.consider = true then
      considerFrom 1 s.query.subs (s.withDue { s.due with consider := false })
    else s)

/-- QUERY_TIMEOUT (R130). -/
def execQueryTimeout (tag : BitVec 4) (s : State) : Host.Outcome State Fault Refusal :=
  .next (if s.running = true ∧ queryOver tag s = true then timeOutQuery tag s else s)

/-- TEMP_PUBLICATION (R134), roles V, S and C. -/
def execTempPublication (s : State) : Host.Outcome State Fault Refusal :=
  .next
    (if s.running = true ∧ s.due.temp = true then
      offerTemp (ownTemp s) (s.withDue { s.due with temp := false })
    else s)

/-- TEMP_NOW (R133): the last valid local temperatures, as they stand. -/
def execTempNow (a : Ask) (s : State) : Host.Outcome State Fault Refusal :=
  .next
    (receiveAsk a qTempNow a.operands.isEmpty
      (fun t => offerReply (replyTo a qTempNow .done (.temps t.port.lastTemps)) t) s)

end Sys2Proof.Machine
end

