-- ==== Sys2Proof/Machine/Correction.lean ====
section
/-! DEFINITION. The correction store (Section 6): the default set, the four TABLE questions, validation
and promotion. -/

namespace Sys2Proof.Machine

/-! ## The default set (R84) -/

/-- A channel of the default set (Figure 6-4). -/
def defaultChannel : Channel := ⟨⟨65536, .none, 0#5, 0, 0⟩, List.replicate 8 ⟨0, 0, 0⟩⟩

/-- The default set of a role (Figure 6-4). -/
def defaultSet (r : Role) : CorrectionSet := ⟨⟨0, 0#5, 30⟩, List.replicate (fieldChannels r) defaultChannel⟩

/-! ## Parts (R87, R88, R90) -/

/-- The content of a part of a set. -/
def partOf (set : CorrectionSet) : PartAddress → Option PartContent
  | .header => some (.header set.header)
  | .base c => (set.channels[c - 1]?).map fun ch => .base ch.base
  | .point c k => (set.channels[c - 1]?).bind fun ch => (ch.points[k - 1]?).map .point

/-- The set with one part replaced. -/
def replacePart (set : CorrectionSet) : PartAddress → PartContent → CorrectionSet
  | .header, .header h => { set with header := h }
  | .base c, .base b => { set with channels := set.channels.modify (c - 1) fun ch => { ch with base := b } }
  | .point c k, .point p =>
    { set with channels := set.channels.modify (c - 1) fun ch => { ch with points := ch.points.set (k - 1) p } }
  | .header, .base _ => set
  | .header, .point _ => set
  | .base _, .header _ => set
  | .base _, .point _ => set
  | .point _ _, .header _ => set
  | .point _ _, .base _ => set

/-- The edition a TABLE WRITE gives: the working edition plus one, 1 after 65,535 (R85). -/
def nextEdition (e : BitVec 16) : BitVec 16 := if e = 65535#16 then 1#16 else e + 1#16

/-- The three values every TABLE reply carries (R86). -/
def tableState (c : CorrectionStore) : TableState := ⟨c.working, c.activeEdition, c.pendingState⟩

/-- The roles without field channels, to which every TABLE question is REFUSED (R86). -/
def storeRefuses (r : Role) : Bool := decide (fieldChannels r = 0)

/-- The edition a question carries in two bytes. -/
def editionAt (ops : List Byte) (i : Nat) : BitVec 16 := BitVec.ofNat 16 (beNat (bytesAt ops i 2))

/-! ## TABLE READ (R88) -/

/-- The set a source code names: ACTIVE, or WORKING, which is the pending set if one exists. -/
def sourceSet (c : CorrectionStore) (code : Byte) : Option CorrectionSet :=
  match code.toNat with
  | 0 => some c.active
  | 1 =>
    match c.pendingSet with
    | some p => some p.content
    | none => some c.active
  | _ => none

/-- The status and body of a TABLE READ. -/
def tableReadAnswer (r : Role) (c : CorrectionStore) (ops : List Byte) : Status × ReplyBody :=
  if storeRefuses r then (.refused, .table (tableState c))
  else
    match parseAddress (byteAt ops 0) (byteAt ops 1) (byteAt ops 2), sourceSet c (byteAt ops 3) with
    | some addr, some set =>
      if addr.inRange r then
        match partOf set addr with
        | some content => (.done, .part (tableState c) addr content)
        | none => (.range, .table (tableState c))
      else (.range, .table (tableState c))
    | _, _ => (.range, .table (tableState c))

/-! ## TABLE WRITE (R89, R90) -/

/-- The store after a part is written into the pending set, which is made from the active set if there is
none; its edition advances (R90). -/
def writePart (c : CorrectionStore) (addr : PartAddress) (content : PartContent) : CorrectionStore :=
  { c with
    pendingSet :=
      some
        ⟨replacePart (match c.pendingSet with | some p => p.content | none => c.active) addr content,
          nextEdition c.working, false⟩ }

/-- The part and content that a TABLE WRITE's operands name, if address and every field are in range. -/
def writeTarget (r : Role) (own : Station) (ops : List Byte) : Option (PartAddress × PartContent) :=
  match parseAddress (byteAt ops 2) (byteAt ops 3) (byteAt ops 4) with
  | some addr => if addr.inRange r then (parseContent r own (ops.drop 5) addr).map fun c => (addr, c) else none
  | none => none

/-- The outcome of a TABLE WRITE in the order of Figure 6-6: status, and the store afterwards. -/
def tableWriteOutcome (r : Role) (own : Station) (c : CorrectionStore) (ops : List Byte) : Status × CorrectionStore :=
  if storeRefuses r then (.refused, c)
  else if c.pendingState = .scheduled then (.busy, c)
  else if editionAt ops 0 ≠ c.working then (.stale, c)
  else
    match writeTarget r own ops with
    | none => (.range, c)
    | some (addr, content) => (.done, writePart c addr content)

/-! ## TABLE COMMIT (R91, R92) and TABLE DISCARD (R93) -/

/-- The first slot, numbered from `slot`, whose temperature is not greater than the one before it. -/
def firstDisorder : Nat → List Point → Option Nat
  | slot, p :: q :: rest => if q.temp ≤ p.temp then some slot else firstDisorder (slot + 1) (q :: rest)
  | _, [_] => none
  | _, [] => none

/-- The first channel, numbered from `n`, that fails validation, with its failing slot (R92). -/
def firstFault : Nat → List Channel → Option (Nat × Nat)
  | _, [] => none
  | n, ch :: rest =>
    match firstDisorder 2 (ch.points.take ch.base.pointCount) with
    | some k => some (n, k)
    | none => firstFault (n + 1) rest

/-- The outcome of a TABLE COMMIT in the order of Figure 6-7: status, failing channel and slot, store. -/
def commitOutcome (r : Role) (c : CorrectionStore) (edition : BitVec 16) :
    Status × Option (Nat × Nat) × CorrectionStore :=
  if storeRefuses r then (.refused, none, c)
  else
    match c.pendingSet with
    | none => (.empty, none, c)
    | some p =>
      if p.scheduled then (.busy, none, c)
      else if edition ≠ p.edition then (.stale, none, c)
      else
        match firstFault 1 p.content.channels with
        | some f => (.range, some f, c)
        | none => (.done, none, { c with pendingSet := some { p with scheduled := true } })

/-- The outcome of a TABLE DISCARD (R93). -/
def discardOutcome (r : Role) (c : CorrectionStore) : Status × CorrectionStore :=
  if storeRefuses r then (.refused, c)
  else
    match c.pendingSet with
    | none => (.empty, c)
    | some p => if p.scheduled then (.busy, c) else (.done, { c with pendingSet := none })

/-! ## Promotion (R94, R95) -/

/-- The store at a promotion: the active set becomes outgoing, the SCHEDULED set active (R95). -/
def CorrectionStore.promoted (c : CorrectionStore) (r : Role) (p : PendingSet) : CorrectionStore :=
  { active := p.content
    activeEdition := p.edition
    loadedRole := r
    pendingSet := none
    outgoing := some ⟨c.active, c.activeEdition⟩ }

/-- The storm detector at a promotion: a threshold of 0 clears it and deasserts STORM (R119). -/
def stormPromotion (s : State) : State :=
  if s.store.active.header.stormThreshold = 0 then
    let t := s.withAssembler
      { s.assembler with storm := { s.assembler.storm with asserted := false, onset := 0, quiet := 0 } }
    if s.assembler.storm.asserted then setOwnStorm false t else t
  else s

/-- A promotion: the store, the rebuild of the subscriptions, the PROMOTE note, the storm detector (R95).
The note's hut time is the whole second at which the promotion is taken (R137), also where hut time has
moved past it, by an extra tick or because the command came later (log entry 32). -/
def promote (p : PendingSet) (s : State) : State :=
  let s1 := (s.withDue { s.due with promote := false }).withStore (s.store.promoted s.straps.role p)
  stormPromotion (ringWrite (.note s.due.second (.promote p.edition)) (rebuildSubs p.content s1))

/-- PROMOTION: the set SCHEDULED when the whole second was reached becomes active (R94). -/
def takePromotion (s : State) : State :=
  if s.running = true ∧ s.due.promote = true then
    match s.store.pendingSet with
    | some p => if p.scheduled then promote p s else s
    | none => s
  else s

/-! ## Meanings -/

def execPromotion (s : State) : Host.Outcome State Fault Refusal := .next (takePromotion s)

/-- TABLE_READ (R88). -/
def execTableRead (a : Ask) (s : State) : Host.Outcome State Fault Refusal :=
  .next
    (receiveAsk a qTableRead (decide (a.operands.length = 4))
      (fun t =>
        let out := tableReadAnswer t.straps.role t.store a.operands
        offerReply (replyTo a qTableRead out.1 out.2) t) s)

/-- TABLE_WRITE (R89). -/
def execTableWrite (a : Ask) (s : State) : Host.Outcome State Fault Refusal :=
  .next
    (receiveAsk a qTableWrite (writeLengthOk a.operands)
      (fun t =>
        let out := tableWriteOutcome t.straps.role t.straps.station t.store a.operands
        offerReply (replyTo a qTableWrite out.1 (.table (tableState out.2))) (t.withStore out.2)) s)

/-- TABLE_COMMIT (R91). -/
def execTableCommit (a : Ask) (s : State) : Host.Outcome State Fault Refusal :=
  .next
    (receiveAsk a qTableCommit (decide (a.operands.length = 2))
      (fun t =>
        let out := commitOutcome t.straps.role t.store (editionAt a.operands 0)
        let body :=
          match out.2.1 with
          | some f => .commitFailure (tableState out.2.2) f.1 f.2
          | none => .table (tableState out.2.2)
        offerReply (replyTo a qTableCommit out.1 body) (t.withStore out.2.2)) s)

/-- TABLE_DISCARD (R93). -/
def execTableDiscard (a : Ask) (s : State) : Host.Outcome State Fault Refusal :=
  .next
    (receiveAsk a qTableDiscard a.operands.isEmpty
      (fun t =>
        let out := discardOutcome t.straps.role t.store
        offerReply (replyTo a qTableDiscard out.1 (.table (tableState out.2))) (t.withStore out.2)) s)

end Sys2Proof.Machine
end

