-- ==== Sys2Proof/Machine/Line.lean ====
section
/-! DEFINITION. The line interface's commands (Section 1): idle line, start bits, the internal arbiter,
the ways a send ends, receive faults, and JOINING's count. -/

namespace Sys2Proof.Machine

/-! ## The internal arbiter (R21) -/

/-- The PUBLISH group: the OBS queue's head, else the TEMP slot, else the ROLL slot. -/
def publishPlace (l : LineInterface) : Option Place :=
  if l.obsQueue.isEmpty = false then some .obs
  else if l.tempSlot.isSome then some .temp
  else if l.rollSlot.isSome then some .roll
  else none

/-- The place that serves the group of a cycle position, if the group holds a packet. -/
def groupPlace (l : LineInterface) (position : Nat) : Option Place :=
  match position with
  | 1 | 3 => if l.replyQueue.isEmpty then none else some .reply
  | 2 | 4 => publishPlace l
  | _ => if l.askQueue.isEmpty then none else some .ask

/-- The cycle position after one, with 5 followed by 1. -/
def nextPosition (position : Nat) : Nat := position % 5 + 1

/-- The first of `n` positions, going round from `position`, whose group holds a packet. -/
def firstInCycle (l : LineInterface) : Nat → Nat → Option (Place × Nat)
  | 0, _ => none
  | n + 1, position =>
    match groupPlace l position with
    | some p => some (p, position)
    | none => firstInCycle l n (nextPosition position)

/-- The arbiter's choice and the cycle position it used (none for MARK and FLAG). -/
def choosePlace (l : LineInterface) : Option (Place × Option Nat) :=
  if l.markSlot.isSome then some (.mark, none)
  else if l.flagSlot.isSome then some (.flag, none)
  else (firstInCycle l 5 l.cycle).map fun c => (c.1, some c.2)

/-- The own MARK with the fields its start bit writes (R47). -/
def markToSend (seq : BitVec 8) (s : State) : MarkPacket :=
  { seq := seq
    prev := s.clock.ownMark
    grade := s.clock.grade
    unset := decide (s.clock.timeState = .unset)
    reference := decide (s.straps.role = .clock) && s.clock.refLocked }

/-- The packet that a place offers, its content completed at the start bit: a MARK's prev fields, grade
and flags (R47), a ROLL's own wire set (R33). -/
def packetAt (p : Place) (s : State) : Option Packet :=
  match p with
  | .mark => s.line.markSlot.map fun q => .mark (markToSend q s)
  | .flag => s.line.flagSlot.map .flag
  | .reply => s.line.replyQueue.head?.map .reply
  | .ask => s.line.askQueue.head?.map .ask
  | .obs => s.line.obsQueue.head?.map .obs
  | .temp => s.line.tempSlot.map .temp
  | .roll => s.line.rollSlot.map fun r => .roll r s.presence.own

/-- The send that begins with this packet: its start edge is captured in hut time (R12), its frame is
fixed (R4, R6). -/
def sendOf (p : Place) (position : Option Nat) (packet : Packet) (s : State) : Send :=
  { place := p
    packet := packet
    capture := some s.clock.time
    replaced := false
    position := position
    header := frameHeader packet.cls s.straps.station (payloadBytes packet).length
    payload := payloadBytes packet
    check := frameCheck (frameHeader packet.cls s.straps.station (payloadBytes packet).length) (payloadBytes packet) }

/-- The conditions of R7, but for a packet waiting: standing, idle line, and the extra wait of a
RESTRAINED node. -/
def mayBegin (s : State) : Bool :=
  s.running && s.speaks && decide (s.line.activity = .idle)
    && (decide (s.line.standing ≠ .restrained) || decide (restrainedBits * s.bitTime ≤ s.line.quiet))

/-- SEND_BEGIN (R7, R21): where its conditions hold, the arbiter chooses and the send begins. -/
def beginSend (s : State) : State :=
  if mayBegin s then
    match choosePlace s.line with
    | some (p, position) =>
      match packetAt p s with
      | some packet => s.withLine (s.line.disturbed (.sending (sendOf p position packet s)))
      | none => s
    | none => s
  else s

/-! ## The ends of a send (Figure 1-4) -/

/-- The packet in flight leaves its queue or slot; a slot that a newer packet has taken keeps it (R18). -/
def LineInterface.dropSent (l : LineInterface) (sd : Send) : LineInterface :=
  match sd.place with
  | .mark => if sd.replaced then l else { l with markSlot := none }
  | .flag => if sd.replaced then l else { l with flagSlot := none }
  | .reply => { l with replyQueue := l.replyQueue.tail }
  | .ask => { l with askQueue := l.askQueue.tail }
  | .obs => { l with obsQueue := l.obsQueue.tail }
  | .temp => if sd.replaced then l else { l with tempSlot := none }
  | .roll => if sd.replaced then l else { l with rollSlot := none }

/-- The cycle position after a packet has passed the contest (R21): it moves past the position used. -/
def LineInterface.cyclePassed (l : LineInterface) (sd : Send) : LineInterface :=
  match sd.position with
  | some p => { l with cycle := nextPosition p }
  | none => l

/-- A lost contest (R8, R12): the packet is back in its place (an older one that was replaced is gone,
R18), and the node takes the winner's packet, whose start edge is the one it captured. -/
def loseContest (s : State) : State :=
  match s.line.activity with
  | .sending sd => if s.running then s.withLine (s.line.disturbed (.receiving sd.capture)) else s
  | .waiting => s
  | .idle => s
  | .receiving _ => s

/-- A bit fault (R9): the packet is dropped, the cycle moves only after the contest, the score rises by
8, and the node waits for the line to become idle. -/
def takeBitFault (afterContest : Bool) (s : State) : State :=
  match s.line.activity with
  | .sending sd =>
    if s.running then
      let l := (s.line.dropSent sd).disturbed .waiting
      raiseScore 8 false (s.withLine (if afterContest then l.cyclePassed sd else l))
    else s
  | .waiting => s
  | .idle => s
  | .receiving _ => s

/-- On an acknowledged MARK whose capture still stands, the own last mark capture is replaced (R48). -/
def keepOwnMark (sd : Send) (s : State) : State :=
  match sd.packet, sd.capture with
  | .mark m, some t => s.withClock { s.clock with ownMark := some ⟨m.seq, t⟩ }
  | _, _ => s

/-- The end of a send (R10): success, or acknowledgment absence. The place it frees is free for an ASK taken
after it at the same moment (R150). -/
def endSend (acked : Bool) (s : State) : State :=
  match s.line.activity with
  | .sending sd =>
    if s.running then
      let t := s.withLine { ((s.line.dropSent sd).disturbed .waiting).cyclePassed sd with sendEnded := true }
      if acked then lowerScore false (keepOwnMark sd t)
      else if t.line.score < 96 then raiseScore 8 false t
      else t
    else s
  | .waiting => s
  | .idle => s
  | .receiving _ => s

/-! ## The idle line and dominant levels (R3) -/

/-- The line becomes idle after 8 fully recessive bit times. -/
def becomeIdle (s : State) : State :=
  if s.running = true ∧ s.line.activity = .waiting ∧ idleBits * s.bitTime ≤ s.line.quiet then
    s.withLine { s.line with activity := .idle }
  else s

/-- A dominant level on the line: on an idle line it is the start bit of a packet, whose start edge is
captured (R3, R12; log entry 5); on a line that is not idle, with no packet being taken, it starts the
counts afresh; during a packet it is part of the packet. -/
def seeDominant (s : State) : State :=
  if s.running then
    match s.line.activity with
    | .idle => s.withLine (s.line.disturbed (.receiving (some s.clock.time)))
    | .waiting => s.withLine (s.line.disturbed .waiting)
    | .receiving c => s.withLine (s.line.disturbed (.receiving c))
    | .sending sd => s.withLine (s.line.disturbed (.sending sd))
  else s

/-- A receive fault (R11): the packet and its capture are discarded and the score rises by 1. A packet
cut short has shown 8 fully recessive bit times already. -/
def takeReceiveFault (kind : ReceiveFaultKind) (s : State) : State :=
  if s.takesPackets then
    let l := s.line.disturbed .waiting
    let n := idleBits * s.bitTime
    raiseScore 1 false (s.withLine (if kind = .cutShort then { l with quiet := n, joinCount := n } else l))
  else s

/-- JOINING's count of 128 has run out (R15). -/
def endJoining (s : State) : State :=
  if s.running = true ∧ s.line.standing = .joining ∧ joiningBits * s.bitTime ≤ s.line.joinCount then
    settleStanding true s
  else s

/-! ## Meanings -/

def execLineIdle (s : State) : Host.Outcome State Fault Refusal := .next (becomeIdle s)

def execSendBegin (s : State) : Host.Outcome State Fault Refusal := .next (beginSend s)

def execContestLost (s : State) : Host.Outcome State Fault Refusal := .next (loseContest s)

def execBitFault (afterContest : Bool) (s : State) : Host.Outcome State Fault Refusal :=
  .next (takeBitFault afterContest s)

def execSendEnd (acked : Bool) (s : State) : Host.Outcome State Fault Refusal := .next (endSend acked s)

def execReceiveFault (kind : ReceiveFaultKind) (s : State) : Host.Outcome State Fault Refusal :=
  .next (takeReceiveFault kind s)

/-- OWN_NUMBER_PACKET (R13): a good packet whose source is the node's own number. -/
def execOwnNumberPacket (s : State) : Host.Outcome State Fault Refusal :=
  .next (receivePacket s.straps.station (fun _ t => t) s)

def execJoiningCountExpiry (s : State) : Host.Outcome State Fault Refusal := .next (endJoining s)

def execDominantLevelWhileNotIdle (s : State) : Host.Outcome State Fault Refusal := .next (seeDominant s)

end Sys2Proof.Machine
end

