-- ==== Sys2Proof/Machine/RecordRing.lean ====
section
/-! DEFINITION. The record ring's questions (Section 9): CONSUME and READ WINDOW. -/

namespace Sys2Proof.Machine

/-- A sequence number in two operand bytes. -/
def sequenceAt (ops : List Byte) (i : Nat) : BitVec 16 := BitVec.ofNat 16 (beNat (bytesAt ops i 2))

/-- The outcome of a CONSUME by the distance of s behind P (R142): status, and the ring afterwards. A record
that a lapping write of the same moment has given up, already more than 1,024 behind P, is answered TOO_OLD as
R145 has it; at every later moment R142's RANGE holds for it (log entry 34). -/
def consumeOutcome (r : Ring) (q : BitVec 16) : Status × Ring :=
  if 1 ≤ r.behind q ∧ r.behind q ≤ r.unconsumed then (.done, { r with consumer := q + 1#16 })
  else if 1 ≤ r.behind q ∧ r.behind q ≤ ringPlaces then (.tooOld, r)
  else if ringPlaces < r.behind q ∧ q ∈ r.lappedNow then (.tooOld, r)
  else (.range, r)

/-- How many records a READ WINDOW sends: the smaller of n and k (R143). -/
def windowCount (r : Ring) (f : BitVec 16) (n : Nat) : Nat := min n (r.behind f)

/-- The status of a READ WINDOW in the order of Figure 9-3, given the free places of the REPLY queue. -/
def windowStatus (r : Ring) (f : BitVec 16) (n free : Nat) : Status :=
  if n = 0 ∨ windowLimit < n then .range
  else if r.written < r.behind f ∧ r.behind f ≤ ringPlaces then .tooOld
  else if r.behind f = 0 ∨ ringPlaces < r.behind f then .range
  else if free < windowCount r f n then .busy
  else .done

/-- The replies of a DONE READ WINDOW: snapshots of `m` records from sequence `f`, the last with the end
marker (R144). -/
def windowReplies (a : Ask) (r : Ring) : Nat → BitVec 16 → List Reply
  | 0, _ => []
  | m + 1, f =>
    match r.recordAt f with
    | some x => replyTo a qReadWindow .done (.window f (decide (m = 0)) x) :: windowReplies a r m (f + 1#16)
    | none => windowReplies a r m (f + 1#16)

/-- The replies are placed one after another (R144). -/
def offerReplies : List Reply → State → State
  | [], s => s
  | r :: rest, s => offerReplies rest (offerReply r s)

/-- An accepted READ WINDOW with operands of the right length (R143, R144). -/
def carryWindow (a : Ask) (s : State) : State :=
  let f := sequenceAt a.operands 0
  let n := (byteAt a.operands 2).toNat
  let st := windowStatus s.ring f n (replyCapacity - s.line.replyQueue.length)
  if st = .done then offerReplies (windowReplies a s.ring (windowCount s.ring f n) f) s
  else offerReply (replyTo a qReadWindow st (.ring s.ring.producer s.ring.consumer)) s

/-- An accepted CONSUME with operands of the right length (R142). -/
def carryConsume (a : Ask) (s : State) : State :=
  let out := consumeOutcome s.ring (sequenceAt a.operands 0)
  offerReply (replyTo a qConsume out.1 (.ring out.2.producer out.2.consumer)) (s.withRing out.2)

/-! ## Meanings -/

def execReadWindow (a : Ask) (s : State) : Host.Outcome State Fault Refusal :=
  .next (receiveAsk a qReadWindow (decide (a.operands.length = 3)) (carryWindow a) s)

def execConsume (a : Ask) (s : State) : Host.Outcome State Fault Refusal :=
  .next (receiveAsk a qConsume (decide (a.operands.length = 2)) (carryConsume a) s)

end Sys2Proof.Machine
end

