-- ==== Sys2Proof/Machine/Restart.lean ====
section
/-! DEFINITION. Straps, restart and retention (Section 11): entry and completion of a restart, and the
commands of the supply monitor and the RESET pin. -/

namespace Sys2Proof.Machine

/-! ## The blocks' restart states, in the order of R167 -/

/-- The role a role strap selects (Figure 11-1). -/
def roleOfStrap (code : BitVec 2) : Role :=
  match roleOfCode code.toNat with
  | some r => r
  | none => .clock

/-- A station strap of 0 or 31 is a strap fault (R162). -/
def strapFaulty (n : Station) : Bool := !namesPeer n

/-- The straps as sampled (R162). -/
def sampleStraps (p : StrapPins) : Straps := ⟨p.station, roleOfStrap p.role, p.rate⟩

/-- The line interface after a restart (R22). -/
def freshLine (station : Station) : LineInterface :=
  ⟨if strapFaulty station then .strapFault else .joining, 0, .waiting, 0, 0, none, none, [], [], [], none, none, 1, false, false⟩

/-- The hut clock after a restart (Figure 3-5). -/
def HutClock.restarted (k : RestartKind) (c : HutClock) : HutClock :=
  { time := if k = .cold then .zero else c.time
    accumulator := 0
    rateTrim := if k = .cold then 0 else c.rateTrim
    slew := 0
    timeState := if k = .cold then .unset else c.timeState
    grade := 7
    markSeq := 0#8
    ownMark := none
    refLocked := false
    ppsAge := ppsAgeLimit
    ppsSamples := [] }

/-- The set names a station, as scalar source or as a PEER temperature source (R97). -/
def CorrectionSet.names (set : CorrectionSet) (n : Station) : Bool :=
  (decide (set.header.scalarSource ≠ 0#5) && decide (set.header.scalarSource = n))
    || set.channels.any fun ch => decide (ch.base.source = .peer) && decide (ch.base.station = n)

/-- A kept set is fit for the straps: loaded under this role, and naming no own number (R97). A changed role
strap replaces the set under a station strap of 0 or 31 too, where R97's last paragraph has the comparison
leave a kept set in place (log entry 33). -/
def CorrectionStore.fits (c : CorrectionStore) (st : Straps) : Bool :=
  decide (c.loadedRole = st.role) && !c.active.names st.station

/-- The correction store after a restart (R97). -/
def CorrectionStore.restarted (k : RestartKind) (st : Straps) (c : CorrectionStore) : CorrectionStore :=
  if k = .warm ∧ c.fits st = true then { c with pendingSet := none, outgoing := none }
  else ⟨defaultSet st.role, 0#16, st.role, none, none⟩

/-- The presence block after a restart (R38). -/
def freshPresence : PresenceBlock := ⟨List.replicate 30 .fresh, 0, 0, .clear, .clear⟩

/-- The sample port after a restart (R80). -/
def freshPort (r : Role) : SamplePort := ⟨none, [], List.replicate (tempChannels r) none⟩

/-- The epoch assembler after a restart (Figure 7-8). -/
def Assembler.restarted (k : RestartKind) (a : Assembler) : Assembler :=
  ⟨[], if k = .cold then none else a.lastOpened, .base, false, .fresh⟩

/-- The record ring after a restart (Figure 9-4); untouched in STRAP FAULT (R147, R163). -/
def Ring.restarted (k : RestartKind) (fault : Bool) (r : Ring) : Ring :=
  if fault then r
  else
    match k with
    | .cold => ⟨[], 0#16, 0#16, 0, true, []⟩
    | .warm => r

/-- The kind of the restart by the retention marker (R166). -/
def restartKind (s : State) : RestartKind := if s.ring.marker then .warm else .cold

/-- The completion of a restart (R165, R167): straps sampled, kind chosen, every block initialized, and,
but for STRAP FAULT, the RESTART note written. -/
def completeRestart (p : StrapPins) (s : State) : State :=
  let k := restartKind s
  let st := sampleStraps p
  let clock := s.clock.restarted k
  let store := s.store.restarted k st
  let t : State :=
    { line := freshLine p.station
      presence := freshPresence
      clock := clock
      engine := ⟨clock.time, none, 0⟩
      port := freshPort st.role
      store := store
      assembler := s.assembler.restarted k
      query := ⟨buildSubs store.active, [], 0#4⟩
      ring := s.ring.restarted k (strapFaulty p.station)
      conditions := .clear
      straps := st
      restart := { s.restart with resetLow := false, supplyHold := false, lastKind := k }
      pins := s.pins
      due := .clear
      pending := s.pending }
  if strapFaulty p.station then t else writeNote (.restart k) t

/-! ## Entry (R165, R20) -/

/-- At entry the LIF stops driving at once: a packet in flight is lost and one being taken is left; the
line is not idle for this node until it has counted afresh (R3, R20). -/
def stopLine (s : State) : State :=
  match s.line.activity with
  | .sending sd => s.withLine ((s.line.dropSent sd).disturbed .waiting)
  | .receiving _ => s.withLine (s.line.disturbed .waiting)
  | .waiting => s
  | .idle => s

/-- The supply falls below the retention level (R164): the retention marker is cleared and a power-up
restart is entered, and held while the supply stays below. -/
def fallSupply (s : State) : State :=
  (stopLine (s.withRing { s.ring with marker := false })).withRestart
    { s.restart with supplyHold := true, supplyLow := true, supplyTicks := 0 }

/-- The supply rises above the retention level (R164): the 100 ms of the monitor begin. -/
def raiseSupply (s : State) : State :=
  if s.restart.supplyHold = true ∧ s.restart.supplyLow = true then
    s.withRestart { s.restart with supplyLow := false, supplyTicks := 0 }
  else s

/-- The supply has stayed above the retention level for 100 ms (R164): the restart completes unless the
RESET pin still holds it (R165). -/
def completeSupply (p : StrapPins) (s : State) : State :=
  if s.restart.supplyHold = true ∧ s.restart.supplyLow = false ∧ supplyTicksNeeded ≤ s.restart.supplyTicks then
    let t := s.withRestart { s.restart with supplyHold := false }
    if s.restart.resetLow then t else completeRestart p t
  else s

/-- SUPPLY_RECOVERY by its moment (log entry 16). -/
def recoverSupply (m : SupplyMoment) (s : State) : State :=
  match m with
  | .rises => raiseSupply s
  | .stayed p => completeSupply p s

/-- The RESET pin is registered low (R165). -/
def assertReset (s : State) : State :=
  if s.restart.resetLow then s else (stopLine s).withRestart { s.restart with resetLow := true }

/-- The RESET pin is registered high: the restart completes unless the supply still holds it (R165). -/
def releaseReset (p : StrapPins) (s : State) : State :=
  if s.restart.resetLow then
    let t := s.withRestart { s.restart with resetLow := false }
    if s.restart.supplyHold then t else completeRestart p t
  else s

/-! ## Meanings -/

def execSupplyFall (s : State) : Host.Outcome State Fault Refusal := .next (fallSupply s)

def execSupplyRecovery (m : SupplyMoment) (s : State) : Host.Outcome State Fault Refusal := .next (recoverSupply m s)

def execResetAsserted (s : State) : Host.Outcome State Fault Refusal := .next (assertReset s)

def execResetReleased (p : StrapPins) (s : State) : Host.Outcome State Fault Refusal := .next (releaseReset p s)

end Sys2Proof.Machine
end

