-- ==== Sys2Proof/Machine/Requests.lean ====
section
/-! DEFINITION. The request handler's own questions (Section 10): STATUS, FENCE, CLEAR CONDITIONS,
RESTART, unknown questions and dropped ASKs. -/

namespace Sys2Proof.Machine

/-! ## STATUS (R153) -/

/-- The snapshot of the node (Figure 10-3). -/
def snapshot (s : State) : Snapshot :=
  { time := s.clock.time
    timeState := s.clock.timeState
    grade := s.clock.grade
    locked := s.clock.refLocked
    rateTrim := s.clock.rateTrim
    lastCorrection := s.engine.lastCorrection
    standing := s.line.standing
    score := s.line.score
    activeEdition := s.store.activeEdition
    workingEdition := s.store.working
    pendingState := s.store.pendingState
    producer := s.ring.producer
    consumer := s.ring.consumer
    conditions := s.conditions
    own := s.presence.own
    lastKind := s.restart.lastKind }

/-! ## FENCE (R155) -/

/-- The packet is a fence reply. -/
def ObsPacket.isFence : ObsPacket → Bool
  | .fence _ => true
  | .record _ => false

/-- FENCE: a DONE fence reply joins the OBS queue; while one is queued, BUSY (R155). -/
def carryFence (a : Ask) (s : State) : State :=
  if s.line.obsQueue.any ObsPacket.isFence then offerReply (replyTo a qFence .busy .empty) s
  else offerObs (.fence ⟨a.source, a.tag, s.clock.time, s.ring.producer⟩) s

/-! ## CLEAR CONDITIONS (R158) -/

/-- CLEAR CONDITIONS: the named conditions are cleared; a byte that names anything else is refused with
RANGE and an empty body (log entry 21). -/
def carryClear (a : Ask) (s : State) : State :=
  if namesOnlyConditions (byteAt a.operands 0) then
    let c := s.conditions.without (byteAt a.operands 0)
    offerReply (replyTo a qClearConditions .done (.conditions c)) (s.withConditions c)
  else offerReply (replyTo a qClearConditions .range .empty) s

/-! ## RESTART (R159, R160) -/

/-- The kind that a RESTART's operands name. -/
def kindNamed (ops : List Byte) : Option RestartKind :=
  if ops = [0#8] then some .warm else if ops = [1#8] then some .cold else none

/-- The RESTART is carried out: taken, not from the node's own number, accepted. -/
def restartTaken (a : Ask) (s : State) : Bool :=
  s.takesAsk a.source && decide (a.source ≠ s.straps.station) && askAccepted a qRestart s

/-- A good RESTART (R159): an accepted one restarts the node in the same event, a COLD one after the
retention marker is cleared; any other kind, or another operand length, is answered RANGE. A restart
ends the event: the score change of the packet is lost in it (R14, R22). -/
def takeRestart (a : Ask) (p : StrapPins) (s : State) : State :=
  match kindNamed a.operands, restartTaken a s with
  | some .warm, true => completeRestart p (stopLine s)
  | some .cold, true => completeRestart p (stopLine (s.withRing { s.ring with marker := false }))
  | _, _ => receiveAsk a qRestart false (fun t => t) s

/-! ## Dropped ASKs (R149, R150) -/

/-- The ASK that a payload of at least three bytes spells, with its question code. -/
def parseAsk (src : Station) (payload : List Byte) : Option (Ask × Byte) :=
  match payload with
  | target :: tag :: code :: ops => some (⟨src, target, tag, ops⟩, code)
  | _ => none

/-- The payload would be accepted as an ASK from this source. -/
def wouldAccept (src : Station) (payload : List Byte) (s : State) : Bool :=
  match parseAsk src payload with
  | some (a, code) => askAccepted a code s
  | none => false

/-! ## Meanings -/

def execStatus (a : Ask) (s : State) : Host.Outcome State Fault Refusal :=
  .next
    (receiveAsk a qStatus a.operands.isEmpty
      (fun t => offerReply (replyTo a qStatus .done (.status (snapshot t))) t) s)

def execFence (a : Ask) (s : State) : Host.Outcome State Fault Refusal :=
  .next (receiveAsk a qFence a.operands.isEmpty (carryFence a) s)

def execClearConditions (a : Ask) (s : State) : Host.Outcome State Fault Refusal :=
  .next (receiveAsk a qClearConditions (decide (a.operands.length = 1)) (carryClear a) s)

/-- RESTART_WARM (R159): a RESTART whose operand is not the kind COLD (log entry 15). -/
def execRestartWarm (a : Ask) (p : StrapPins) (s : State) : Host.Outcome State Fault Refusal :=
  .next (takeRestart a p s)

/-- RESTART_COLD (R159): a RESTART whose operand is the kind COLD (log entry 15). -/
def execRestartCold (a : Ask) (p : StrapPins) (s : State) : Host.Outcome State Fault Refusal :=
  .next (takeRestart a p s)

/-- UNKNOWN_QUESTION (R151): answered UNKNOWN with an empty body. A code that names a question is not this
event, and nothing happens (log entry 2). -/
def execUnknownQuestion (a : Ask) (code : Byte) (s : State) : Host.Outcome State Fault Refusal :=
  .next
    (if isQuestion code then s
    else receiveAsk a code true (fun t => offerReply (replyTo a code .unknown .empty) t) s)

/-- ASK_DROPPED (R150): the source is heard and the score falls; no reply, nothing carried out. An ASK
that would be accepted is not this event, and nothing happens (log entry 2). -/
def execAskDropped (src : Station) (payload : List Byte) (s : State) : Host.Outcome State Fault Refusal :=
  .next
    (if src ≠ s.straps.station ∧ wouldAccept src payload s = true then s
    else receiveAskPacket src (fun _ t => t) s)

end Sys2Proof.Machine
end

