-- ==== Sys2Proof/Machine/Dispatch.lean ====
section
/-! DEFINITION. The dispatch of commands to their meanings: one arm for each row of the table. -/

namespace Sys2Proof.Machine

def exec (i : Instr) (s : State) : Host.Outcome State Fault Refusal :=
  match i with
  | .lineIdle => Sys2Proof.Machine.execLineIdle s
  | .sendBegin => Sys2Proof.Machine.execSendBegin s
  | .contestLost => Sys2Proof.Machine.execContestLost s
  | .bitFault late => Sys2Proof.Machine.execBitFault late s
  | .sendEnd acked => Sys2Proof.Machine.execSendEnd acked s
  | .receiveFault kind => Sys2Proof.Machine.execReceiveFault kind s
  | .ownNumberPacket => Sys2Proof.Machine.execOwnNumberPacket s
  | .joiningCountExpiry => Sys2Proof.Machine.execJoiningCountExpiry s
  | .presenceExpiry n => Sys2Proof.Machine.execPresenceExpiry n s
  | .disturbanceInputChange inp active => Sys2Proof.Machine.execDisturbanceInputChange inp active s
  | .debounceExpiry inp => Sys2Proof.Machine.execDebounceExpiry inp s
  | .rollOffer => Sys2Proof.Machine.execRollOffer s
  | .flagReceived src p => Sys2Proof.Machine.execFlagReceived src p s
  | .rollReceived src p => Sys2Proof.Machine.execRollReceived src p s
  | .markOffer => Sys2Proof.Machine.execMarkOffer s
  | .markReceived src p => Sys2Proof.Machine.execMarkReceived src p s
  | .lockChange active => Sys2Proof.Machine.execLockChange active s
  | .ppsAgeExpiry => Sys2Proof.Machine.execPpsAgeExpiry s
  | .ppsEdge => Sys2Proof.Machine.execPpsEdge s
  | .roundEnd => Sys2Proof.Machine.execRoundEnd s
  | .syncEdge => Sys2Proof.Machine.execSyncEdge s
  | .conversionSetComplete bit => Sys2Proof.Machine.execConversionSetComplete bit s
  | .baseEpoch => Sys2Proof.Machine.execBaseEpoch s
  | .fastEpoch => Sys2Proof.Machine.execFastEpoch s
  | .holdExpiry => Sys2Proof.Machine.execHoldExpiry s
  | .promotion => Sys2Proof.Machine.execPromotion s
  | .tempReceived src p => Sys2Proof.Machine.execTempReceived src p s
  | .obsReceived src p => Sys2Proof.Machine.execObsReceived src p s
  | .queryConsideration => Sys2Proof.Machine.execQueryConsideration s
  | .queryTimeout tag => Sys2Proof.Machine.execQueryTimeout tag s
  | .replyReceived src p => Sys2Proof.Machine.execReplyReceived src p s
  | .tempPublication => Sys2Proof.Machine.execTempPublication s
  | .status a => Sys2Proof.Machine.execStatus a s
  | .readWindow a => Sys2Proof.Machine.execReadWindow a s
  | .consume a => Sys2Proof.Machine.execConsume a s
  | .tableRead a => Sys2Proof.Machine.execTableRead a s
  | .tableWrite a => Sys2Proof.Machine.execTableWrite a s
  | .tableCommit a => Sys2Proof.Machine.execTableCommit a s
  | .tableDiscard a => Sys2Proof.Machine.execTableDiscard a s
  | .tempNow a => Sys2Proof.Machine.execTempNow a s
  | .fence a => Sys2Proof.Machine.execFence a s
  | .clearConditions a => Sys2Proof.Machine.execClearConditions a s
  | .restartWarm a pins => Sys2Proof.Machine.execRestartWarm a pins s
  | .restartCold a pins => Sys2Proof.Machine.execRestartCold a pins s
  | .unknownQuestion a code => Sys2Proof.Machine.execUnknownQuestion a code s
  | .supplyFall => Sys2Proof.Machine.execSupplyFall s
  | .supplyRecovery moment => Sys2Proof.Machine.execSupplyRecovery moment s
  | .resetAsserted => Sys2Proof.Machine.execResetAsserted s
  | .resetReleased pins => Sys2Proof.Machine.execResetReleased pins s
  | .oscillatorEdge => Sys2Proof.Machine.execOscillatorEdge s
  | .serialClockEdge bit => Sys2Proof.Machine.execSerialClockEdge bit s
  | .askDropped src p => Sys2Proof.Machine.execAskDropped src p s
  | .dominantLevelWhileNotIdle => Sys2Proof.Machine.execDominantLevelWhileNotIdle s

end Sys2Proof.Machine
end

