-- ==== Sys2Proof/Machine/Step.lean ====
section
/-! DEFINITION. The step of the node: the command at the front of the queue, run on the state with the
queue's rest. -/

namespace Sys2Proof.Machine

/-- One step. On an empty queue the block idles (log entry 1). -/
def step (s : State) : Host.Outcome State Fault Refusal :=
  match s.pending with
  | [] => .next s
  | c :: rest => exec c (s.withPending rest)

/-- The state with the command that a word spells at the front of its queue; unchanged where the word
spells none. -/
def State.withFetchWord (s : State) (nbits w : Nat) : State :=
  match Sys2Proof.decodeTableWord nbits w with
  | some c => s.withPending (c :: s.pending)
  | none => s

end Sys2Proof.Machine
end

