-- ==== Sys2Proof/Safety.lean ====
section
/-! DEFINITION. What a sound state of the node is, one invariant for each block, and the states that
statements about received packets and accepted questions are written with. -/

namespace Sys2Proof

/-- A hut time whose tick count lies from 0 to 9,999,999 (R39). -/
def HutTime.wf (t : HutTime) : Bool := decide (t.tick < 10000000)

/-- Each hut time of a list is later than the one before it, by the signed difference of R39. -/
def increasing : List HutTime → Bool
  | a :: b :: rest => b.later a && increasing (b :: rest)
  | [_] => true
  | [] => true

end Sys2Proof

namespace Sys2Proof.Machine

/-! ## The record ring -/

/-- The canonical form of the ring's places: addresses strictly rising, all below 1,024. -/
abbrev PlacesWf (l : List (Nat × Record)) : Prop :=
  (l.map Prod.fst).Pairwise (· < ·) ∧ ∀ p ∈ l, p.1 < 1024

/-- The ring is sound (R138, R141): canonical places; the unconsumed count within the written count and
that within 1,024; every retained sequence number names a record that stands in its place under it. -/
def RingInv (r : Ring) : Prop :=
  PlacesWf r.places ∧ r.written ≤ 1024 ∧ r.unconsumed ≤ r.written ∧
    ∀ q : BitVec 16, 1 ≤ r.behind q → r.behind q ≤ r.written → ∃ x, r.recordAt q = some x ∧ x.seq = q

/-! ## Wires -/

/-- The wire OR as R35 gives it: a wire is true when the own assertion is, or when a PRESENT entry's wire set holds it. -/
def hutOr (own : WireSet) (peers : List Peer) : WireSet :=
  { storm := own.storm || peers.any fun e => decide (e.presence = .present) && e.wires.storm
    door := own.door || peers.any fun e => decide (e.presence = .present) && e.wires.door
    heater := own.heater || peers.any fun e => decide (e.presence = .present) && e.wires.heater
    service := own.service || peers.any fun e => decide (e.presence = .present) && e.wires.service }

/-- The presence block is sound (R23, R27, R29, R35): 30 entries; an entry that is not PRESENT asserts
nothing; the wire OR is that of R35; the own SERVICE assertion is false. -/
def WireInv (p : PresenceBlock) : Prop :=
  p.peers.length = 30 ∧ (∀ e ∈ p.peers, e.presence ≠ .present → e.wires = .clear) ∧
    p.wireOr = hutOr p.own p.peers ∧ p.own.service = false

/-! ## The line interface -/

/-- The line interface is sound (R14 to R17, R21, R22): the score from 0 to 255 and within its standing's
band; a send only in NORMAL and RESTRAINED; nothing in any place while WITHDRAWN or in STRAP FAULT; STRAP
FAULT exactly when the station strap reads 0 or 31; the cycle position from 1 to 5. -/
def LineInv (s : State) : Prop :=
  s.line.score ≤ 255 ∧ (s.line.standing = .joining → s.line.score < 192) ∧
    (s.line.standing = .normal → s.line.score < 96) ∧
    (s.line.standing = .restrained → 64 < s.line.score ∧ s.line.score < 192) ∧
    (s.line.standing = .withdrawn → 64 < s.line.score) ∧
    (s.line.standing = .strapFault → s.line.score = 0 ∧ s.line.activity = .waiting) ∧
    (∀ sd, s.line.activity = .sending sd → s.line.standing = .normal ∨ s.line.standing = .restrained) ∧
    (s.line.standing = .withdrawn ∨ s.line.standing = .strapFault → s.line.emptied = s.line) ∧
    (s.line.standing = .strapFault ↔ (s.straps.station = 0#5 ∨ s.straps.station = 31#5)) ∧
    1 ≤ s.line.cycle ∧ s.line.cycle ≤ 5

/-- The queues hold no more than their capacity, and the OBS queue at most one fence reply (R18, R19). -/
def PlacesInv (l : LineInterface) : Prop :=
  l.replyQueue.length ≤ 8 ∧ l.askQueue.length ≤ 4 ∧ l.obsQueue.length ≤ 4 ∧ l.obsQueue.countP ObsPacket.isFence ≤ 1

/-- Some queue or slot holds a packet (R7). -/
def LineInterface.hasPacket (l : LineInterface) : Bool :=
  l.markSlot.isSome || l.flagSlot.isSome || !l.replyQueue.isEmpty || !l.askQueue.isEmpty || !l.obsQueue.isEmpty
    || l.tempSlot.isSome || l.rollSlot.isSome

/-- The conditions of R7 but for a packet waiting: running, an idle line, NORMAL standing, or RESTRAINED
standing after 32 fully recessive bit times. -/
def MayBegin (s : State) : Prop :=
  s.running = true ∧ s.line.activity = .idle ∧
    (s.line.standing = .normal ∨ (s.line.standing = .restrained ∧ 32 * bitTicks s.straps.rate ≤ s.line.quiet))

/-- The line interface after a send has ended otherwise than by a lost contest: the packet gone from its
place, a slot that a newer packet has taken keeping it, the cycle position and the mark of a send's end as
given, the line not idle. Standing and score are left to the statement. -/
def AfterSend (sd : Send) (cycle : Nat) (ended : Bool) (before after : LineInterface) : Prop :=
  after.activity = .waiting ∧ after.sendEnded = ended ∧ after.quiet = 0 ∧ after.joinCount = 0 ∧ after.ackDriven = before.ackDriven ∧
    after.cycle = cycle ∧
    after.markSlot = (if sd.place = .mark ∧ sd.replaced = false then none else before.markSlot) ∧
    after.flagSlot = (if sd.place = .flag ∧ sd.replaced = false then none else before.flagSlot) ∧
    after.tempSlot = (if sd.place = .temp ∧ sd.replaced = false then none else before.tempSlot) ∧
    after.rollSlot = (if sd.place = .roll ∧ sd.replaced = false then none else before.rollSlot) ∧
    after.replyQueue = (if sd.place = .reply then before.replyQueue.tail else before.replyQueue) ∧
    after.askQueue = (if sd.place = .ask then before.askQueue.tail else before.askQueue) ∧
    after.obsQueue = (if sd.place = .obs then before.obsQueue.tail else before.obsQueue)

/-- The cycle position after the contest has been passed (R21). -/
def cycleAfter (sd : Send) (cycle : Nat) : Nat :=
  match sd.position with
  | some p => p % 5 + 1
  | none => cycle

/-! ## The hut clock -/

/-- The hut clock is sound (R39, R41 to R43, R46, R51, R52, R63). -/
def ClockInv (s : State) : Prop :=
  s.clock.time.wf = true ∧ s.clock.accumulator.natAbs < 1000000000 ∧ s.clock.rateTrim.natAbs ≤ 50000 ∧
    s.clock.slew.natAbs ≤ 50000 ∧ s.clock.grade ≤ 7 ∧ s.clock.markSeq.toNat ≤ 254 ∧
    s.clock.ppsSamples.length ≤ 8 ∧ s.clock.ppsAge ≤ 20000000 ∧
    (s.clock.refLocked = true → s.straps.role = .clock) ∧
    (s.clock.timeState = .unset → s.clock.rateTrim = 0 ∧ s.clock.slew = 0)

/-! ## The sample port -/

/-- The sample port is sound (R69, R71, R75, R76): at most 8 sets of strictly rising captures, each with
the role's channels; one last valid temperature for each temperature channel; an open set short of its last bit. -/
def HistoryInv (s : State) : Prop :=
  s.port.history.length ≤ 8 ∧ increasing (s.port.history.map SampleSet.capture) = true ∧
    s.port.lastTemps.length = tempChannels s.straps.role ∧
    (∀ x ∈ s.port.history, x.fields.length = fieldChannels s.straps.role ∧ x.temps.length = tempChannels s.straps.role) ∧
    ∀ o, s.port.openSet = some o → o.words.length < wordsPerSet s.straps.role ∧ o.bits < 24

/-! ## The correction store -/

/-- A set has the role's channels, each with eight point slots (R83). -/
def SetShape (r : Role) (c : CorrectionSet) : Prop :=
  c.channels.length = fieldChannels r ∧ ∀ ch ∈ c.channels, ch.points.length = 8

/-- The temperatures of every channel's used points strictly increase (R92). -/
def PointsRise (c : CorrectionSet) : Prop :=
  ∀ ch ∈ c.channels, ((ch.points.take ch.base.pointCount).map Point.temp).Pairwise (· < ·)

/-- The correction store is sound (R81, R84 to R86, R92): every set of the role's shape; edition 0 only
with the default set; a committed, active or outgoing set valid; roles T and C on the default set. The loaded role
is the role strapped, in STRAP FAULT too, by log entry 33's reading of R97 (DEDUCED). -/
def StoreInv (s : State) : Prop :=
  s.store.loadedRole = s.straps.role ∧
    SetShape s.straps.role s.store.active ∧ PointsRise s.store.active ∧
    (s.store.activeEdition = 0#16 → s.store.active = defaultSet s.straps.role) ∧
    (∀ p, s.store.pendingSet = some p →
      SetShape s.straps.role p.content ∧ p.edition ≠ 0#16 ∧ (p.scheduled = true → PointsRise p.content)) ∧
    (∀ o, s.store.outgoing = some o → SetShape s.straps.role o.content ∧ PointsRise o.content) ∧
    (s.straps.role = .thermal ∨ s.straps.role = .clock →
      s.store.activeEdition = 0#16 ∧ s.store.pendingSet = none ∧ s.store.outgoing = none)

/-! ## The epoch assembler -/

/-- The assembler is sound (R98, R101, R107, R108): at most 4 entries of strictly rising instants, the
last opened epoch the newest of them; an open entry still awaits something; the head is open, since a
closed head is released at once; nothing queued in roles T and C. -/
def AssemblyInv (s : State) : Prop :=
  s.assembler.queue.length ≤ 4 ∧ increasing (s.assembler.queue.map Entry.instant) = true ∧
    (∀ e, s.assembler.queue.getLast? = some e → s.assembler.lastOpened = some e.instant) ∧
    (∀ e ∈ s.assembler.queue, e.closed = none → e.isComplete s.straps.role = false) ∧
    (∀ e, s.assembler.queue.head? = some e → e.closed = none) ∧
    (s.straps.role = .thermal ∨ s.straps.role = .clock → s.assembler.queue = [])

/-- An open entry of role V or S closes with what it holds; a closed one stays (R107, R109 to R117). -/
def closedNow (cause : CloseCause) (s : State) (e : Entry) : Entry :=
  if e.closed = none then
    { e with closed := some (closeField s.straps.role s.query (s.store.setFor e.edition) e cause) }
  else e

/-- An open entry of role V or S that has all it awaits closes complete (R104, R107); any other stays. -/
def closedIfComplete (s : State) (e : Entry) : Entry :=
  if e.bracket.isSome = true ∧ (e.scalarSource = none ∨ e.contribution.isSome = true) then closedNow .complete s e else e

/-- What a closed entry records (Figure 9-1, R171). -/
def contentOf (e : Entry) (k : Closed) : RecordContent :=
  .epoch
    { kind := e.kind, instant := e.instant, edition := e.edition, wires := e.wires, grade := e.grade
      quality := k.quality, slots := k.slots, deltaF := k.deltaF, cause := k.cause, span := k.span }

/-- The record of the ring that a closed entry becomes under the sequence number `q` (Figure 9-1, R171). -/
def recordUnder (s : State) (q : BitVec 16) (e : Entry) (k : Closed) : Record :=
  ⟨s.straps.role, s.straps.station, q, contentOf e k⟩

/-- The closed entries at the head of a queue, each with its close: those that are released (R108). -/
def releasable (q : List Entry) : List (Entry × Closed) :=
  (q.takeWhile fun e => e.closed.isSome).filterMap fun e => e.closed.map fun k => (e, k)

/-- The outgoing set goes at the release of the last entry of its edition, and stays before (R96, R121). -/
def outgoingAfter (out : List (Entry × Closed)) (rest : List Entry) (o : Option OutgoingSet) : Option OutgoingSet :=
  o.filter fun x => !((out.any fun p => decide (p.1.edition = x.edition)) && rest.all fun e => decide (e.edition ≠ x.edition))

/-- The state `t` that a node of role V or S in state `s` is in after the release of the queue `q` (R108,
R139, R140). The closed entries at the head are written to the ring in their order, each by the ring's write,
so that they stand there from P on and every other record as it stood; the values of each base record are
judged by the storm detector (R118), which may change the own STORM, the wire OR and the FLAG slot (R31), and
the record is offered as an OBS; the outgoing set goes with the last entry of its edition; the queue begins at
the first open entry. Everything else stays. -/
def Releases (q : List Entry) (s t : State) : Prop :=
  let out := releasable q
  let rest := q.dropWhile fun e => e.closed.isSome
  let wrote := out.foldl (fun u p => ringWrite (contentOf p.1 p.2) u) s
  let judged := (out.filter fun p => decide (p.1.kind = .base)).foldl (fun u p => stormRecord p.2.slots u) s
  let base := (out.zipIdx.filter fun p => decide (p.1.1.kind = .base)).map fun p =>
    recordUnder s (s.ring.producer + BitVec.ofNat 16 p.2) p.1.1 p.1.2
  let obs :=
    if s.accepts then
      base.foldl (fun l x => obsRoom (s.line.activity.inFlight .obs) l ++ [.record x]) s.line.obsQueue
    else s.line.obsQueue
  t = (((((s.withRing wrote.ring).withConditions wrote.conditions).withPresence judged.presence).withLine
        { judged.line with obsQueue := obs }).withAssembler
          { s.assembler with queue := rest, storm := judged.assembler.storm }).withStore
            { s.store with outgoing := outgoingAfter out rest s.store.outgoing } ∧
    t.ring.producer = s.ring.producer + BitVec.ofNat 16 out.length ∧
    (∀ i e k, out[i]? = some (e, k) →
      t.ring.recordAt (s.ring.producer + BitVec.ofNat 16 i) =
        some (recordUnder s (s.ring.producer + BitVec.ofNat 16 i) e k)) ∧
    (∀ x : BitVec 16, (∀ i, i < out.length → x.toNat % 1024 ≠ (s.ring.producer + BitVec.ofNat 16 i).toNat % 1024) →
      t.ring.recordAt x = s.ring.recordAt x) ∧
    t.ring.marker = s.ring.marker

/-! ## Room in the OBS queue -/

/-- What R19 removes from a full OBS queue: its oldest OBS packet that is neither the fence reply nor in
flight at the head. A queue with a free place loses nothing. -/
def RoomMade (inFlight : Bool) (before after : List ObsPacket) : Prop :=
  (before.length < 4 → after = before) ∧
    (4 ≤ before.length → ∀ pre r post, before = pre ++ .record r :: post → (inFlight = true → pre ≠ []) →
      (∀ x ∈ pre.drop inFlight.toNat, ∃ f, x = .fence f) → after = pre ++ post)

/-! ## The subscription and query engine -/

/-- The query engine is sound (R123, R128): no two entries of one station and class; at most 4 pending
queries, no two with one tag. -/
def QueryInv (q : QueryEngine) : Prop :=
  q.subs.Pairwise (fun a b => a.sameKey b = false) ∧ q.queries.length ≤ 4 ∧ (q.queries.map PendingQuery.tag).Nodup

/-! ## Received packets -/

/-- The node takes a packet from another station (R11, R13). -/
abbrev Takes (src : Station) (s : State) : Prop := s.takesPackets = true ∧ src ≠ s.straps.station

/-- The source station names an entry of the peer table (R24). -/
abbrev Numbered (src : Station) : Prop := 1 ≤ src.toNat ∧ src.toNat ≤ 30

/-- The node hands an ASK from another station over to its handler (R13, R149, R150; log entry 31). -/
abbrev TakesAsk (src : Station) (s : State) : Prop := s.takesAsk src = true ∧ src ≠ s.straps.station

/-- After a good packet from another station and before its owner acts: acknowledged as the standing
permits (R10), the line not idle, its source PRESENT and heard now (R24). An own packet in flight stays in
flight (R7, log entry 31). -/
def received (src : Station) (s : State) : State :=
  (s.withLine
    (match s.line.activity with
    | .sending _ => { s.line with ackDriven := s.speaks }
    | _ => { s.line with activity := .waiting, quiet := 0, joinCount := 0, ackDriven := s.speaks })).withPresence
    (if Numbered src then
      { s.presence with
        peers := s.presence.peers.modify (src.toNat - 1) fun e =>
          { e with presence := .present, lastHeard := some s.clock.time } }
    else s.presence)

/-- The end of the event: the score is 1 lower, and the standing is evaluated (R14, R15). A good
packet that takes a WITHDRAWN node to JOINING leaves it there (log entry 35). -/
def scored (t : State) : State := settleStanding true (t.withLine { t.line with score := t.line.score - 1 })

/-- The state with the presence block's peers changed and the wire OR that follows (R34, R35). -/
def withPeers (t : State) (peers : List Peer) : State :=
  t.withPresence { t.presence with peers := peers, wireOr := hutOr t.presence.own peers }

/-! ## Accepted questions -/

/-- The node takes the ASK and its source and tag can be answered (R149), and its standing and REPLY
queue let it accept (R150). -/
abbrev Answerable (a : Ask) (s : State) : Prop :=
  TakesAsk a.source s ∧ Numbered a.source ∧ a.tag.toNat ≤ 15 ∧
    (s.line.standing = .normal ∨ s.line.standing = .restrained) ∧ s.line.replyQueue.length < 8

/-- An answerable ASK to the node's own number. -/
abbrev Asked (a : Ask) (s : State) : Prop := Answerable a s ∧ a.target.toNat = s.straps.station.toNat

/-- An answerable ASK to the node's own number or to every station. -/
abbrev AskedAll (a : Ask) (s : State) : Prop :=
  Answerable a s ∧ (a.target.toNat = s.straps.station.toNat ∨ a.target = 0#8)

/-- The state with replies at the tail of the REPLY queue. -/
def withReplies (t : State) (l : List Reply) : State :=
  t.withLine { t.line with replyQueue := t.line.replyQueue ++ l }

/-- The state after an accepted question that did `t` to the received state and drew one reply (R151, R152). -/
def answered (a : Ask) (code : Byte) (st : Status) (body : ReplyBody) (t : State) : State :=
  scored (withReplies t [⟨a.source, a.tag, code, st, body⟩])

end Sys2Proof.Machine
end

