-- ==== Sys2Proof/Certificates/Slice0/Obligations.lean ====
section
/-! DEFINITION. The statements for the provers. Each names the rules it rests on; where a clause rests on
a choice of the model, its docstring names the log entry. -/

open Sys2Proof Sys2Proof.Machine

/-! ## The machine as a whole -/

/-- A step takes the command at the front of the queue and runs it on the state with the queue's rest; on
an empty queue the block idles (log entry 1, the model's choice). -/
def Obligations.StepTakesTheFrontCommand : Prop :=
  ∀ s : State,
    (∀ c rest, s.pending = c :: rest → step s = exec c (s.withPending rest)) ∧
    (s.pending = [] → step s = .next s)

/-- Every command ends in a next state, and leaves the queue of waiting commands as it is. That an event
commanded where its own condition does not hold ends in a next state too, and does nothing, is log entry 2
(DESIGN CHOICE). -/
def Obligations.EveryCommandHasANextState : Prop :=
  ∀ (c : Instr) (s : State), ∃ t, exec c s = .next t ∧ t.pending = s.pending

/-- Every invariant holds at reset. What reset leaves under `Config.resetStraps` is log entry 11's. -/
def Obligations.InvariantsHoldAtReset : Prop :=
  RingInv State.reset.ring ∧ WireInv State.reset.presence ∧ LineInv State.reset ∧ PlacesInv State.reset.line ∧
    ClockInv State.reset ∧ HistoryInv State.reset ∧ StoreInv State.reset ∧ AssemblyInv State.reset ∧
    QueryInv State.reset.query

/-- The ring stays sound (R138, R139, R141, R142). -/
def Obligations.RingStaysSound : Prop :=
  ∀ s t : State, RingInv s.ring → step s = .next t → RingInv t.ring

/-- The wire OR stays the OR of the own assertions and the PRESENT entries' wire sets, and an entry that
is not PRESENT asserts nothing (R23, R27, R35). -/
def Obligations.WireOrStaysTheOr : Prop :=
  ∀ s t : State, WireInv s.presence → step s = .next t → WireInv t.presence

/-- Score, standing, sends and places stay consistent (R14 to R17, R21, R22). -/
def Obligations.StandingStaysInItsBand : Prop :=
  ∀ s t : State, LineInv s → step s = .next t → LineInv t

/-- No queue grows beyond its capacity and no second fence reply is queued (R18, R19, R155). -/
def Obligations.QueuesStayWithinCapacity : Prop :=
  ∀ s t : State, PlacesInv s.line → step s = .next t → PlacesInv t.line

/-- The clock's quantities stay within their ranges (R39, R41 to R43, R46, R51, R52). That the PPS age stops
at its limit of 20,000,000 is log entry 17 (DESIGN CHOICE). -/
def Obligations.ClockStaysInRange : Prop :=
  ∀ s t : State, ClockInv s → step s = .next t → ClockInv t

/-- The sample history stays strictly ordered and bounded (R71, R73, R76, R77). -/
def Obligations.HistoryStaysOrdered : Prop :=
  ∀ s t : State, HistoryInv s → step s = .next t → HistoryInv t

/-- The sets of the correction store stay valid (R81, R84 to R86, R90 to R92, R95, R97). That the loaded role is the
role strapped, and every set of that role's shape, also after a warm restart into STRAP FAULT under another role strap
rests on the model's reading of R97's two sentences (log entry 33, DEDUCED). -/
def Obligations.CorrectionSetsStayValid : Prop :=
  ∀ s t : State, StoreInv s → step s = .next t → StoreInv t

/-- The assembly queue stays ordered, and a closed head is released at once (R98, R101, R107, R108). -/
def Obligations.AssemblyQueueStaysOrdered : Prop :=
  ∀ s t : State, AssemblyInv s → step s = .next t → AssemblyInv t

/-- Pending queries stay at most four with distinct tags, and subscriptions distinct (R123, R124, R128). -/
def Obligations.PendingQueriesStayDistinct : Prop :=
  ∀ s t : State, QueryInv s.query → step s = .next t → QueryInv t.query

/-! ## Section 1: the line -/

/-- R3: 8 recessive bit times make the line idle; a dominant level starts the counts afresh, and on an
idle line it is a start bit. That a start bit of another station arrives as this command is log entry 5. -/
def Obligations.LineIdleAndDominantLevels : Prop :=
  ∀ s : State, s.running = true →
    (s.line.activity = .waiting → 8 * bitTicks s.straps.rate ≤ s.line.quiet →
      exec .lineIdle s = .next (s.withLine { s.line with activity := .idle })) ∧
    ((s.line.activity ≠ .waiting ∨ s.line.quiet < 8 * bitTicks s.straps.rate) → exec .lineIdle s = .next s) ∧
    (s.line.activity ≠ .idle →
      exec .dominantLevelWhileNotIdle s = .next (s.withLine { s.line with quiet := 0, joinCount := 0 })) ∧
    (s.line.activity = .idle →
      exec .dominantLevelWhileNotIdle s =
        .next (s.withLine
          { s.line with activity := .receiving (some s.clock.time), quiet := 0, joinCount := 0 }))

/-- R7, R12, R16, R21, R33, R47: a send begins under the four conditions, with the packet the arbiter chooses
from the places as they stand, its start edge captured, a MARK's fields and a ROLL's own wire set written at
its start bit; else nothing begins. -/
def Obligations.SendBeginsWithTheArbitersChoice : Prop :=
  ∀ s : State, 1 ≤ s.line.cycle → s.line.cycle ≤ 5 →
    (MayBegin s ∧ s.line.hasPacket = true →
      ∃ sd : Send,
        exec .sendBegin s =
          .next (s.withLine { s.line with activity := .sending sd, quiet := 0, joinCount := 0 }) ∧
        sd.capture = some s.clock.time ∧ sd.replaced = false ∧
        packetAt sd.place s = some sd.packet ∧ sd.payload = payloadBytes sd.packet ∧
        sd.header = frameHeader sd.packet.cls s.straps.station sd.payload.length ∧
        sd.check = frameCheck sd.header sd.payload ∧
        (s.line.markSlot.isSome = true → sd.place = .mark ∧ sd.position = none) ∧
        (s.line.markSlot = none → s.line.flagSlot.isSome = true → sd.place = .flag ∧ sd.position = none) ∧
        (s.line.markSlot = none → s.line.flagSlot = none →
          ∃ k, k < 5 ∧ sd.position = some ((s.line.cycle - 1 + k) % 5 + 1) ∧
            groupPlace s.line ((s.line.cycle - 1 + k) % 5 + 1) = some sd.place ∧
            ∀ j, j < k → groupPlace s.line ((s.line.cycle - 1 + j) % 5 + 1) = none) ∧
        (∀ w, s.line.flagSlot = some w → sd.place = .flag → sd.packet = .flag w) ∧
        (sd.place = .reply → ∃ r, s.line.replyQueue.head? = some r ∧ sd.packet = .reply r) ∧
        (sd.place = .ask → ∃ a, s.line.askQueue.head? = some a ∧ sd.packet = .ask a) ∧
        (sd.place = .obs → ∃ o, s.line.obsQueue.head? = some o ∧ sd.packet = .obs o) ∧
        (sd.place = .temp → ∃ x, s.line.tempSlot = some x ∧ sd.packet = .temp x) ∧
        (sd.place = .roll → ∃ r, s.line.rollSlot = some r ∧ sd.packet = .roll r s.presence.own) ∧
        (∀ q, s.line.markSlot = some q →
          sd.payload =
            [q] ++ (match s.clock.ownMark with | some c => c.seq :: timeBytes c.time | none => 255#8 :: List.replicate 7 0#8)
              ++ [BitVec.ofNat 8 s.clock.grade,
                  BitVec.ofNat 8 ((if s.clock.timeState = .unset then 1 else 0)
                    + (if s.straps.role = .clock ∧ s.clock.refLocked = true then 2 else 0))])) ∧
    (¬ (MayBegin s ∧ s.line.hasPacket = true) → exec .sendBegin s = .next s) ∧
    let reply := if s.line.replyQueue = [] then none else some Place.reply
    let publish :=
      if s.line.obsQueue ≠ [] then some Place.obs
      else if s.line.tempSlot.isSome then some Place.temp
      else if s.line.rollSlot.isSome then some Place.roll
      else none
    groupPlace s.line 1 = reply ∧ groupPlace s.line 2 = publish ∧ groupPlace s.line 3 = reply ∧
      groupPlace s.line 4 = publish ∧ groupPlace s.line 5 = if s.line.askQueue = [] then none else some .ask

/-- Figure 1-4 (R8, R9, R10, R14, R18, R21, R48): how a send ends: lost contest, bit fault, acknowledgment
absence, success; after the last two an ASK may be taken at the same moment (R150, log entry 31). The settling of the standing is `settleStanding`, stated in StandingFollowsTheScore. -/
def Obligations.HowASendEnds : Prop :=
  ∀ (s : State) (sd : Send), s.running = true → s.line.activity = .sending sd →
    exec .contestLost s =
      .next (s.withLine { s.line with activity := .receiving sd.capture, quiet := 0, joinCount := 0 }) ∧
    (∀ late : Bool, ∃ l,
      AfterSend sd (if late then cycleAfter sd s.line.cycle else s.line.cycle) s.line.sendEnded s.line l ∧
      l.standing = s.line.standing ∧ l.score = min 255 (s.line.score + 8) ∧
      exec (.bitFault late) s = .next (settleStanding false (s.withLine l))) ∧
    (∃ l, AfterSend sd (cycleAfter sd s.line.cycle) true s.line l ∧ l.standing = s.line.standing ∧
      (s.line.score < 96 →
        l.score = min 255 (s.line.score + 8) ∧
        exec (.sendEnd false) s = .next (settleStanding false (s.withLine l))) ∧
      (96 ≤ s.line.score → l.score = s.line.score ∧ exec (.sendEnd false) s = .next (s.withLine l))) ∧
    (∃ l c, AfterSend sd (cycleAfter sd s.line.cycle) true s.line l ∧ l.standing = s.line.standing ∧
      l.score = s.line.score - 1 ∧
      (∀ m t, sd.packet = .mark m → sd.capture = some t → c = { s.clock with ownMark := some ⟨m.seq, t⟩ }) ∧
      ((∀ m, sd.packet ≠ .mark m) ∨ sd.capture = none → c = s.clock) ∧
      exec (.sendEnd true) s = .next (settleStanding false ((s.withClock c).withLine l)))

/-- R9, R11, R14: a receive fault discards the packet with its capture, adds 1 to the score, and the node waits
for the line to become idle; the 8 recessive bit times of a cut-short packet count toward that (R3; in ticks,
log entry 6). While the node waits for an idle line, as after a bit fault, a receive fault or a packet's end,
and while it sends, it takes no packet of a class but ASK and meets no receive fault (for ASKs see
AskIsDroppedOrJudged). -/
def Obligations.ReceiveFaultAddsOne : Prop :=
  (∀ (s : State) (kind : ReceiveFaultKind), s.line.activity = .waiting ∨ (∃ sd, s.line.activity = .sending sd) →
    exec (.receiveFault kind) s = .next s ∧ exec .ownNumberPacket s = .next s ∧
    ∀ src p, exec (.markReceived src p) s = .next s ∧ exec (.flagReceived src p) s = .next s ∧
      exec (.replyReceived src p) s = .next s ∧ exec (.obsReceived src p) s = .next s ∧
      exec (.tempReceived src p) s = .next s ∧ exec (.rollReceived src p) s = .next s) ∧
  ∀ (s : State) (kind : ReceiveFaultKind), s.running = true →
    s.line.activity = .idle ∨ (∃ c, s.line.activity = .receiving c) →
    exec (.receiveFault kind) s =
      .next (settleStanding false (s.withLine
        { s.line with
          activity := .waiting, score := min 255 (s.line.score + 1)
          quiet := if kind = .cutShort then 8 * bitTicks s.straps.rate else 0
          joinCount := if kind = .cutShort then 8 * bitTicks s.straps.rate else 0 }))

/-- R13: a good packet with the node's own number is acknowledged, reaches no block, adds 8 and sets
DUPLICATE, whatever its class. -/
def Obligations.OwnNumberPacketSetsDuplicate : Prop :=
  ∀ s : State, s.takesPackets = true →
    exec .ownNumberPacket s =
      .next (settleStanding true ((s.withLine
        { s.line with
          activity := .waiting, quiet := 0, joinCount := 0, ackDriven := s.speaks
          score := min 255 (s.line.score + 8) }).withConditions { s.conditions with duplicate := true })) ∧
    ∀ p, exec (.markReceived s.straps.station p) s = exec .ownNumberPacket s ∧
      exec (.flagReceived s.straps.station p) s = exec .ownNumberPacket s ∧
      exec (.rollReceived s.straps.station p) s = exec .ownNumberPacket s ∧
      exec (.tempReceived s.straps.station p) s = exec .ownNumberPacket s ∧
      exec (.obsReceived s.straps.station p) s = exec .ownNumberPacket s ∧
      exec (.replyReceived s.straps.station p) s = exec .ownNumberPacket s ∧
      exec (.askDropped s.straps.station p) s = exec .ownNumberPacket s

/-- Figure 1-7 (R15, R17): every transition of the standing, with its STANDING note; JOINING ends at 128
recessive bit times. One transition is taken at an evaluation (log entry 9); that the good packet which takes
a WITHDRAWN node to JOINING does not also end JOINING is the model's choice (log entry 35). -/
def Obligations.StandingFollowsTheScore : Prop :=
  (∀ (joined : Bool) (s : State),
    let n := s.line.score
    let stays := settleStanding joined s = s
    let goes := fun st : Standing => settleStanding joined s = writeNote (.standing st n) (s.withLine { s.line with standing := st })
    let joins := settleStanding joined s =
      writeNote (.standing .joining n) (s.withLine { s.line with standing := .joining, joinCount := 0 })
    let withdraws := settleStanding joined s =
      writeNote (.standing .withdrawn n)
        ((s.withLine { s.line.emptied with standing := .withdrawn }).withQuery { s.query with queries := [] })
    (s.line.standing = .joining →
      (192 ≤ n → withdraws) ∧ (joined = true → n < 96 → goes .normal) ∧
      (joined = true → 96 ≤ n → n < 192 → goes .restrained) ∧ (joined = false → n < 192 → stays)) ∧
    (s.line.standing = .normal → (n < 96 → stays) ∧ (96 ≤ n → goes .restrained)) ∧
    (s.line.standing = .restrained →
      (n ≤ 64 → goes .normal) ∧ (64 < n → n < 192 → stays) ∧ (192 ≤ n → withdraws)) ∧
    (s.line.standing = .withdrawn → (n ≤ 64 → joins) ∧ (64 < n → stays)) ∧
    (s.line.standing = .strapFault → stays)) ∧
  (∀ s : State, s.running = true → s.line.standing = .joining →
    128 * bitTicks s.straps.rate ≤ s.line.joinCount → exec .joiningCountExpiry s = .next (settleStanding true s))

/-- R4, R6, R11: a frame that a node builds, with a class of Figure 1-3 and at most 48 payload bytes, is
good at a receiver, and the check register run over the frame's own check ends at 0. -/
def Obligations.BuiltFrameIsGood : Prop :=
  ∀ (cls : PacketClass) (src : Station) (payload : List Byte), payload.length ≤ 48 →
    let header := frameHeader cls src payload.length
    goodFrame header payload (frameCheck header payload) = true ∧
    (coveredBits header payload ++ msbFirst (frameCheck header payload)).foldl checkBit 0xFFFF#16 = 0#16 ∧
    (frameBits header payload).length = 1 + 14 + 8 * payload.length + 16

/-! ## Section 2: presence and wires -/

/-- R25, R27, R132: silence of 3 s makes a PRESENT station ABSENT and withdraws what the node had from it;
before that nothing happens. -/
def Obligations.SilentStationBecomesAbsent : Prop :=
  ∀ (s : State) (n : Station) (t : HutTime), s.running = true → Numbered n →
    (s.presence.peer n).presence = .present → (s.presence.peer n).lastHeard = some t →
    (s.clock.time.diff t < 30000000 → exec (.presenceExpiry n) s = .next s) ∧
    (30000000 ≤ s.clock.time.diff t →
      exec (.presenceExpiry n) s =
        .next (retireQueries (fun q => decide (q.target = n))
          (withPeers s (s.presence.peers.modify (n.toNat - 1) fun e =>
            { e with presence := .absent, capture := none, sample := none, wires := .clear }))))

/-- R29, R30, R32: a disturbance input's level, its debounce count, and the change of the own set that
follows 500,000 ticks of the opposite level, with its FLAG and wire OR. -/
def Obligations.DisturbanceInputIsDebounced : Prop :=
  ∀ s : State, s.running = true → s.presence.wireOr = hutOr s.presence.own s.presence.peers →
    (∀ active, exec (.disturbanceInputChange .door active) s =
      .next ((s.withPins { s.pins with dist0 := active }).withPresence
        { s.presence with debounce0 := if active = s.presence.own.door then 0 else s.presence.debounce0 })) ∧
    (∀ active, exec (.disturbanceInputChange .heater active) s =
      .next ((s.withPins { s.pins with dist1 := active }).withPresence
        { s.presence with debounce1 := if active = s.presence.own.heater then 0 else s.presence.debounce1 })) ∧
    (500000 ≤ s.presence.debounce0 → s.pins.dist0 ≠ s.presence.own.door →
      exec (.debounceExpiry .door) s =
        .next (offerFlag { s.presence.own with door := s.pins.dist0 }
          (s.withPresence
            { s.presence with
              debounce0 := 0, own := { s.presence.own with door := s.pins.dist0 }
              wireOr := hutOr { s.presence.own with door := s.pins.dist0 } s.presence.peers }))) ∧
    (500000 ≤ s.presence.debounce1 → s.pins.dist1 ≠ s.presence.own.heater →
      exec (.debounceExpiry .heater) s =
        .next (offerFlag { s.presence.own with heater := s.pins.dist1 }
          (s.withPresence
            { s.presence with
              debounce1 := 0, own := { s.presence.own with heater := s.pins.dist1 }
              wireOr := hutOr { s.presence.own with heater := s.pins.dist1 } s.presence.peers }))) ∧
    (∀ w t, (t : State).accepts = true →
      offerFlag w t = t.withLine { t.line with flagSlot := some w, activity := t.line.activity.replacedAt .flag }) ∧
    (∀ w t, (t : State).accepts = false → offerFlag w t = t)

/-- R28, R34, R35: a good FLAG and a good ROLL replace the sender's wire set, a ROLL its reported time
state too, and the wire OR follows. -/
def Obligations.FlagAndRollReplaceTheWireSet : Prop :=
  ∀ (s : State) (src : Station), Takes src s → Numbered src → WireInv s.presence →
    (∀ b : Byte, exec (.flagReceived src [b]) s =
      .next (scored (withPeers (received src s)
        ((received src s).presence.peers.modify (src.toNat - 1) fun e =>
          { e with wires := ⟨b.getLsbD 0, b.getLsbD 1, b.getLsbD 2, b.getLsbD 3⟩ })))) ∧
    (∀ role standing score state grade b e1 e0 u1 u0 kind : Byte,
      role.toNat ≤ 3 → standing.toNat ≤ 3 → state.toNat ≤ 1 → grade.toNat ≤ 7 → kind.toNat ≤ 1 →
      exec (.rollReceived src [role, standing, score, state, grade, b, e1, e0, u1, u0, kind]) s =
        .next (scored (withPeers (received src s)
          ((received src s).presence.peers.modify (src.toNat - 1) fun e =>
            { e with
              timeState := if state = 0#8 then .unset else .set
              wires := ⟨b.getLsbD 0, b.getLsbD 1, b.getLsbD 2, b.getLsbD 3⟩ }))))

/-- R24, R170: a good packet whose payload does not fit its class, or a MARK, FLAG or ROLL from station 0 or
31, makes its source heard and lowers the score, and does nothing else. Unfit are: another length; a code that
is none of its own, a grade above 7, a tick count of 10,000,000 or more; a MARK numbered 255; a TEMP whose count
is not 1 to 4; an OBS of another kind than BASE, or one that is no record and no fence reply. That a REPLY with an
unlisted question or status code is discarded before it is matched is log entry 29 (DEDUCED). -/
def Obligations.UnfitPayloadIsDiscarded : Prop :=
  ∀ (s : State) (src : Station) (p : List Byte), Takes src s →
    ((parseFlag p = none ∨ ¬ Numbered src) → exec (.flagReceived src p) s = .next (scored (received src s))) ∧
    ((parseRoll p = none ∨ ¬ Numbered src) → exec (.rollReceived src p) s = .next (scored (received src s))) ∧
    ((parseMark p = none ∨ ¬ Numbered src) → exec (.markReceived src p) s = .next (scored (received src s))) ∧
    (parseTemp p = none → exec (.tempReceived src p) s = .next (scored (received src s))) ∧
    (parseObs p = none → exec (.obsReceived src p) s = .next (scored (received src s))) ∧
    (parseReply p = none → exec (.replyReceived src p) s = .next (scored (received src s))) ∧
    (p.length ≠ 1 → parseFlag p = none) ∧ (p.length ≠ 11 → parseRoll p = none ∧ parseMark p = none) ∧
    (p.length < 4 → parseReply p = none) ∧ (p.length ≠ 41 → p.length ≠ 14 → parseObs p = none) ∧
    ((byteAt p 1 = 0#8 ∨ 4 < (byteAt p 1).toNat) → parseTemp p = none) ∧
    (3 < (byteAt p 0).toNat ∨ p.length ≠ 2 + 2 * (byteAt p 1).toNat → parseTemp p = none) ∧
    (byteAt p 0 = 255#8 ∨ 7 < (byteAt p 9).toNat ∨ 10000000 ≤ beNat (bytesAt p 6 3) → parseMark p = none) ∧
    (3 < (byteAt p 0).toNat ∨ 3 < (byteAt p 1).toNat ∨ 1 < (byteAt p 3).toNat ∨ 7 < (byteAt p 4).toNat ∨
      1 < (byteAt p 10).toNat → parseRoll p = none) ∧
    (1 < (byteAt p 0).toNat → parseObs p = none) ∧
    (byteAt p 0 = 0#8 →
      p.length ≠ 41 ∨ byteAt p 1 ≠ 0#8 ∨ 3 < (byteAt p 2).toNat ∨ 10000000 ≤ beNat (bytesAt p 10 3) ∨
        7 < (byteAt p 16).toNat ∨ 2 < (byteAt p 37).toNat → parseObs p = none) ∧
    (byteAt p 0 = 1#8 →
      p.length ≠ 14 ∨ byteAt p 3 ≠ 9#8 ∨ byteAt p 4 ≠ 0#8 ∨ 10000000 ≤ beNat (bytesAt p 9 3) → parseObs p = none) ∧
    (byteAt p 2 = 0#8 ∨ 11 < (byteAt p 2).toNat ∨ 7 < (byteAt p 3).toNat → parseReply p = none)

/-- R18, R33, R46, R134: the MARK, ROLL and TEMP due at a whole second are offered to their slots, where a
newer packet replaces an older one; where the standing takes no packets, the MARK's number is spent all the
same. That an event waits, due, until its command comes is log entry 3. -/
def Obligations.DuePacketsAreOffered : Prop :=
  ∀ s : State,
    (s.held = false → s.due.mark = true →
      exec .markOffer s =
        .next (((s.withDue { s.due with mark := false }).withClock
            { s.clock with markSeq := if s.clock.markSeq.toNat < 254 then s.clock.markSeq + 1#8 else 0#8 }).withLine
          (if s.accepts then
            { s.line with markSlot := some s.clock.markSeq, activity := s.line.activity.replacedAt .mark }
          else s.line))) ∧
    (s.running = true → s.due.roll = true →
      exec .rollOffer s =
        .next ((s.withDue { s.due with roll := false }).withLine
          (if s.accepts then
            { s.line with
              rollSlot := some
                { role := s.straps.role, standing := s.line.standing, score := s.line.score
                  timeState := s.clock.timeState, grade := s.clock.grade, edition := s.store.activeEdition
                  unconsumed := (s.ring.producer - s.ring.consumer).toNat, kind := s.restart.lastKind }
              activity := s.line.activity.replacedAt .roll }
          else s.line))) ∧
    (s.running = true → s.due.temp = true →
      exec .tempPublication s =
        .next ((s.withDue { s.due with temp := false }).withLine
          (if s.accepts then
            { s.line with
              tempSlot := some ⟨s.straps.role, s.port.lastTemps⟩, activity := s.line.activity.replacedAt .temp }
          else s.line)))

/-! ## Section 3: hut time and marks -/

/-- R39, R40, R41, R99, R164: the trim accumulator's table, what an oscillator edge counts, the events that
become due when it carries hut time to a whole second, and the fast instants that become due under STORM cadence.
The model's choices: the due flags (log entry 3), the line's counts in ticks (log entry 6), the supply monitor's
count (log entry 16), and that counts stop at the limit they are compared with: the PPS age at 20,000,000, the
debounce, line and supply counts (log entry 17), and that the edge ends the moment of a lapping write (log entry 34). -/
def Obligations.OscillatorEdgeCounts : Prop :=
  ∀ s : State, ClockInv s →
    let a := s.clock.accumulator + (s.clock.rateTrim + s.clock.slew)
    ∃ (n : Nat) (a' : Int) (l : LineInterface) (p : PresenceBlock) (d : Due),
      exec .oscillatorEdge s =
        .next ((((((s.withClock { s.clock with
            time := s.clock.time.add n, accumulator := a'
            ppsAge := min 20000000 (s.clock.ppsAge + 1) }).withRestart { s.restart with
              supplyTicks :=
                if s.restart.supplyHold = true ∧ s.restart.supplyLow = false then min 1000000 (s.restart.supplyTicks + 1)
                else s.restart.supplyTicks }).withLine l).withPresence p).withDue d).withRing { s.ring with lappedNow := [] }) ∧
      (1000000000 ≤ a → n = 2 ∧ a' = a - 1000000000) ∧
      (-1000000000 < a → a < 1000000000 → n = 1 ∧ a' = a) ∧
      (a ≤ -1000000000 → n = 0 ∧ a' = a + 1000000000) ∧
      a'.natAbs < 1000000000 ∧
      (s.running = false → l = s.line ∧ p = s.presence) ∧
      (s.running = true →
        p = { s.presence with
              debounce0 := if s.pins.dist0 = s.presence.own.door then s.presence.debounce0 else min 500000 (s.presence.debounce0 + 1)
              debounce1 := if s.pins.dist1 = s.presence.own.heater then s.presence.debounce1 else min 500000 (s.presence.debounce1 + 1) } ∧
        ((s.line.activity = .waiting ∨ s.line.activity = .idle) →
          l = { s.line with
                quiet := min (32 * bitTicks s.straps.rate) (s.line.quiet + 1)
                joinCount := min (128 * bitTicks s.straps.rate) (s.line.joinCount + 1)
                sendEnded := false }) ∧
        (s.line.activity ≠ .waiting → s.line.activity ≠ .idle → l = { s.line with sendEnded := false })) ∧
      (s.held = true → d = s.due) ∧
      (s.clock.time.tick + n < 10000000 →
        s.assembler.cadence = .base ∨ s.straps.role = .clock ∨ s.running = false → d = s.due) ∧
      (s.clock.time.tick + n < 10000000 → s.assembler.cadence = .storm → s.straps.role ≠ .clock → s.running = true →
        (∀ k ∈ [2000000, 4000000, 6000000, 8000000], s.clock.time.tick < k → k ≤ s.clock.time.tick + n →
          d = { s.due with fast := some ⟨s.clock.time.sec, k⟩ }) ∧
        ((∀ k ∈ [2000000, 4000000, 6000000, 8000000], k ≤ s.clock.time.tick ∨ s.clock.time.tick + n < k) → d = s.due)) ∧
      (s.held = false → 10000000 ≤ s.clock.time.tick + n →
        let sec := s.clock.time.sec + 1#32
        d = { second := ⟨sec, 0⟩
              mark := true
              roll := s.running && decide (sec.toNat % 10 = 0)
              temp := s.running && decide (sec.toNat % 10 = 0) && decide (s.straps.role ≠ .thermal)
              base := s.running && decide (s.straps.role ≠ .clock)
              consider := s.running
              promote := s.running && decide (s.store.pendingState = .scheduled)
              roundEnd := s.running && decide (sec.toNat % 8 = 0) && decide (s.engine.lastRoundEnd ≠ some sec)
              fast := none })

/-- R49, R50: a good MARK rewrites the reported time state, yields an offset sample under the four
conditions of R50, and leaves its own capture for the next pairing. -/
def Obligations.MarkIsPairedWithTheHeldCapture : Prop :=
  ∀ (s : State) (src : Station) (seq prev flags : Byte) (t : HutTime) (grade : Nat),
    Takes src s → Numbered src → seq ≠ 255#8 → t.wf = true → grade ≤ 7 →
    exec (.markReceived src ([seq, prev] ++ timeBytes t ++ [BitVec.ofNat 8 grade, flags])) s =
      .next (scored ((received src s).withPresence
        { s.presence with
          peers := (received src s).presence.peers.modify (src.toNat - 1) fun e =>
            { e with
              timeState := if flags.getLsbD 0 then .unset else .set
              capture := s.receiveCapture.map fun c => ⟨seq, c⟩
              sample :=
                match e.capture with
                | some c =>
                  if flags.getLsbD 0 = false ∧ prev ≠ 255#8 ∧ c.seq = prev then some ⟨t.diff c.time, grade⟩ else e.sample
                | none => e.sample } }))

/-- R51, R52: LOCK, PPS and the PPS age in role C; the other roles do not follow them. -/
def Obligations.ClockRoleFollowsItsReference : Prop :=
  ∀ s : State, s.running = true →
    (s.straps.role = .clock →
      exec (.lockChange false) s =
        .next ((s.withPins { s.pins with lock := false }).withClock { s.clock with refLocked := false }) ∧
      exec (.lockChange true) s =
        .next ((s.withPins { s.pins with lock := true }).withClock
          { s.clock with refLocked := decide (s.clock.ppsAge < 20000000) }) ∧
      (20000000 ≤ s.clock.ppsAge → exec .ppsAgeExpiry s = .next (s.withClock { s.clock with refLocked := false })) ∧
      (s.pins.lock = false → exec .ppsEdge s = .next (s.withClock { s.clock with ppsAge := 0 })) ∧
      (s.pins.lock = true →
        exec .ppsEdge s =
          .next (s.withClock
            { s.clock with
              ppsAge := 0, refLocked := true
              ppsSamples :=
                (if s.clock.ppsSamples.length < 8 then s.clock.ppsSamples else s.clock.ppsSamples.tail)
                  ++ [if s.clock.time.tick < 5000000 then -(s.clock.time.tick : Int)
                      else 10000000 - (s.clock.time.tick : Int)] }))) ∧
    (s.straps.role ≠ .clock →
      exec .ppsEdge s = .next s ∧ exec .ppsAgeExpiry s = .next s ∧
      ∀ active, exec (.lockChange active) s = .next (s.withPins { s.pins with lock := active }))

/-! ## Section 4: agreement -/

/-- R1: the quotient is a nearest integer, and a half is rounded away from zero. -/
def Obligations.DivisionRoundsToNearest : Prop :=
  (∀ n d : Int, 0 < d →
    2 * (n - divRound n d * d).natAbs ≤ d.natAbs ∧
    (2 * (n - divRound n d * d).natAbs = d.natAbs → n.natAbs < (divRound n d * d).natAbs)) ∧
  divRound 83 2 = 42 ∧ divRound (-25652) 100 = -257 ∧ divRound (-5) 2 = -3

/-- R62: from four candidates on, one greatest and one least are set aside; the correction is the mean of
the rest, rounded to nearest, and lies within the candidates' range. -/
def Obligations.CorrectionIsTheTrimmedMean : Prop :=
  ∀ l : List Int, l ≠ [] →
    ∃ hi lo, hi ∈ l ∧ lo ∈ l ∧ (∀ x ∈ l, lo ≤ x ∧ x ≤ hi) ∧
      (4 ≤ l.length → correction l = divRound (l.sum - hi - lo) ((l.length : Int) - 2)) ∧
      (l.length < 4 → correction l = divRound l.sum (l.length : Int)) ∧
      lo ≤ correction l ∧ correction l ≤ hi

/-- R59 to R61: the grade and the candidates of a round end. -/
def Obligations.GradeFollowsTheBestSamples : Prop :=
  ∀ s : State,
    let locked := s.straps.role = .clock ∧ s.clock.timeState = .set ∧ s.clock.refLocked = true ∧ s.clock.ppsSamples ≠ []
    let fresh := s.presence.peers.filterMap fun e =>
      if e.presence = .present ∧ e.timeState = .set then e.sample else none
    (locked → roundGrade s = 0 ∧ candidates s = s.clock.ppsSamples) ∧
    (¬ locked → fresh = [] → roundGrade s = 7 ∧ candidates s = []) ∧
    (¬ locked → fresh ≠ [] → (∀ d ∈ fresh, d.grade ≤ 7) →
      ∃ g, (∃ d ∈ fresh, d.grade = g) ∧ (∀ d ∈ fresh, g ≤ d.grade) ∧
        (g ≤ 6 → roundGrade s = g + 1 ∧
          candidates s = (fresh.filter fun d => decide (d.grade = g)).map OffsetSample.offset) ∧
        (g = 7 → roundGrade s = 7 ∧ candidates s = fresh.map OffsetSample.offset ++ [0])) ∧
    (roundGrade s = 0 → locked)

/-- R63, R65, R66, R67: a round end without a step: slewing, holding over, founding, joining with c = 0. That a
ROUND_END taken later than its second begins the round at the present hut time and keeps the second that was due
as the last round-end second is log entry 3 (DESIGN CHOICE). -/
def Obligations.RoundEndWithoutAStep : Prop :=
  ∀ s : State, s.running = true → s.due.roundEnd = true →
    let c := correction (candidates s)
    let after := fun (slew trim : Int) =>
      ((((s.withClock
          { s.clock with grade := roundGrade s, timeState := .set, slew := slew, rateTrim := trim, ppsSamples := [] }).withEngine
        { roundBegin := s.clock.time, lastRoundEnd := some s.due.second.sec, lastCorrection := c }).withPresence
          { s.presence with peers := s.presence.peers.map fun e => { e with sample := none } }).withDue
            { s.due with roundEnd := false })
    (s.clock.timeState = .set → candidates s ≠ [] → -10000 < c → c < 10000 →
      exec .roundEnd s =
        .next (after (max (-50000) (min 50000 (divRound (c * 25) 2)))
          (max (-50000) (min 50000 (s.clock.rateTrim + divRound (c * 25) 8))))) ∧
    (s.clock.timeState = .set → candidates s = [] → c = 0 ∧ exec .roundEnd s = .next (after 0 s.clock.rateTrim)) ∧
    (s.clock.timeState = .unset → c = 0 → exec .roundEnd s = .next (after 0 s.clock.rateTrim))

/-- R44, R26, R77, R119, R120, R127, R63, R64: a round end that steps. Hut time moves by c; the clock, the
line interface (R12), the presence block, the sample port, the assembler, the query engine and the conditions act
as Figure 3-2 lists: every open entry of the assembly queue closes with the cause STEP and is released before the STEP
note (R107, R108, R120, R171), which is the newest record, and a landing on a whole second reaches it (R40). That the
entries close with the subscriptions as they stood is log entry 10 (DEDUCED), and the last round-end second of a
ROUND_END taken late is log entry 3 (DESIGN CHOICE). -/
def Obligations.RoundEndWithAStep : Prop :=
  ∀ s : State, s.running = true → s.due.roundEnd = true → AssemblyInv s →
    let c := correction (candidates s)
    let landing := s.clock.time.add c
    let moved := ((((((s.withClock
        { s.clock with
          time := landing, accumulator := 0, slew := 0, timeState := .set, grade := roundGrade s
          ownMark := none, ppsSamples := [] }).withEngine
        { s.engine with lastRoundEnd := some s.due.second.sec, lastCorrection := c }).withDue
        { s.due with roundEnd := false }).withLine { s.line with activity := s.line.activity.withoutCapture }).withPresence
        { s.presence with
          peers := s.presence.peers.map fun e =>
            { e with
              capture := none
              lastHeard := if e.presence = .present then e.lastHeard.map fun x => x.add c else e.lastHeard } }).withPort
        { s.port with openSet := none, history := [] })
    ((s.clock.timeState = .unset ∧ c ≠ 0) ∨ (s.clock.timeState = .set ∧ candidates s ≠ [] ∧ (c ≤ -10000 ∨ 10000 ≤ c))) →
    ∃ t, exec .roundEnd s = .next t ∧
      t.clock = { s.clock with
        time := landing, accumulator := 0, slew := 0, timeState := .set, grade := roundGrade s
        ownMark := none, ppsSamples := [] } ∧
      t.engine = { roundBegin := landing, lastRoundEnd := some s.due.second.sec, lastCorrection := c } ∧
      t.presence.peers = (s.presence.peers.map fun e =>
        { e with
          capture := none, sample := none
          lastHeard := if e.presence = .present then e.lastHeard.map fun x => x.add c else e.lastHeard }) ∧
      t.port = { s.port with openSet := none, history := [] } ∧
      t.query = { s.query with
        subs := s.query.subs.map (Subscription.stepped c)
        queries := s.query.queries.map fun q => { q with issue := q.issue.add c } } ∧
      t.conditions.stepped = true ∧
      t.ring.recordAt (t.ring.producer - 1#16)
        = some ⟨s.straps.role, s.straps.station, t.ring.producer - 1#16, .note landing (.step c)⟩ ∧
      t.ring.producer = s.ring.producer + BitVec.ofNat 16 (s.assembler.queue.length + 1) ∧
      t.assembler.queue = [] ∧
      (∃ u, Releases (s.assembler.queue.map (closedNow .step moved)) moved u ∧
        t.ring = (ringWrite (.note landing (.step c)) u).ring ∧
        t.conditions = { (ringWrite (.note landing (.step c)) u).conditions with stepped := true } ∧
        t.line = u.line ∧ t.store = u.store ∧
        t.presence = { u.presence with peers := u.presence.peers.map fun e => { e with sample := none } } ∧
        t.assembler.lastOpened = u.assembler.lastOpened ∧ t.assembler.storm.asserted = u.assembler.storm.asserted) ∧
      (s.straps.role ≠ .clock →
        t.assembler.stepMark = true ∧ t.assembler.storm.onset = 0 ∧ t.assembler.storm.quiet = 0 ∧
        t.assembler.storm.reference = none ∧
        t.assembler.cadence = if landing.tick = 0 then s.assembler.cadence else .base) ∧
      (landing.tick ≠ 0 → t.due = Due.clear) ∧
      (landing.tick = 0 →
        t.due =
          { second := landing
            mark := true
            roll := decide (landing.sec.toNat % 10 = 0)
            temp := decide (landing.sec.toNat % 10 = 0) && decide (s.straps.role ≠ .thermal)
            base := decide (s.straps.role ≠ .clock)
            consider := true
            promote := decide (s.store.pendingState = .scheduled)
            roundEnd := false
            fast := none }) ∧
      (s.line.activity = .waiting → t.line.activity = .waiting) ∧ (s.line.activity = .idle → t.line.activity = .idle) ∧
      (∀ x, s.line.activity = .receiving x → t.line.activity = .receiving none) ∧
      (∀ sd, s.line.activity = .sending sd →
        ∃ r, t.line.activity = .sending { sd with capture := none, replaced := r } ∧
          (sd.place ≠ .flag ∨ sd.replaced = true → r = sd.replaced)) ∧
      t.line.score = s.line.score ∧ t.line.standing = s.line.standing ∧ t.line.replyQueue = s.line.replyQueue ∧
      t.line.markSlot = s.line.markSlot ∧ t.line.askQueue = s.line.askQueue ∧ t.line.rollSlot = s.line.rollSlot ∧
      t.store.active = s.store.active ∧ t.store.activeEdition = s.store.activeEdition ∧
      t.store.pendingSet = s.store.pendingSet ∧
      t.straps = s.straps ∧ t.restart = s.restart ∧ t.pins = s.pins ∧ t.pending = s.pending

/-! ## Section 5: the sample port -/

/-- R70 to R72: SYNC opens a set with its capture and discards an open one as partial; a bit joins the
word in progress, and is surplus while no set is open. -/
def Obligations.SyncAndBitsAssembleASet : Prop :=
  ∀ s : State, s.running = true →
    exec .syncEdge s =
      .next ((s.withPort { s.port with openSet := some ⟨s.clock.time, [], 0, 0#24⟩ }).withConditions
        { s.conditions with partialSet := s.conditions.partialSet || s.port.openSet.isSome }) ∧
    (s.port.openSet = none → ∀ bit, exec (.serialClockEdge bit) s = .next s) ∧
    (∀ o bit, s.port.openSet = some o → o.words.length < wordsPerSet s.straps.role → o.bits < 23 →
      exec (.serialClockEdge bit) s =
        .next (s.withPort { s.port with
          openSet := some { o with bits := o.bits + 1, shift := (o.shift <<< 1) ||| BitVec.ofNat 24 bit.toNat } })) ∧
    (∀ o bit, s.port.openSet = some o → o.words.length + 1 < wordsPerSet s.straps.role → o.bits = 23 →
      exec (.serialClockEdge bit) s =
        .next (s.withPort { s.port with
          openSet := some
            { o with
              words := o.words ++ [(o.shift <<< 1) ||| BitVec.ofNat 24 bit.toNat], bits := 0, shift := 0#24 } }))

/-- R73 to R76, R105, R107, R108: the last bit completes the set: order check, decoding (Figure 5-3), entry into
the history, last valid temperatures. In roles V and S every open entry without a bracket whose instant precedes
the set takes the set and the newest one at or before its instant as its bracket; an entry that then has all it
awaits closes complete, and the closed entries at the head are released. That SERIAL_CLOCK_EDGE with the last bit
does the same is log entry 26 (DESIGN CHOICE). -/
def Obligations.LastBitCompletesTheSet : Prop :=
  ∀ (s : State) (o : OpenSet) (bit : Bool), s.running = true → s.port.openSet = some o →
    o.words.length + 1 = wordsPerSet s.straps.role → o.bits = 23 →
    let words := o.words ++ [(o.shift <<< 1) ||| BitVec.ofNat 24 bit.toNat]
    let temps := (s.port.lastTemps.zip (words.drop (fieldChannels s.straps.role))).map fun p =>
      if p.2.toInt = -8388608 then p.1 else some (max (-5000) (min 8000 p.2.toInt))
    let x : SampleSet :=
      { capture := o.capture
        fields := (words.take (fieldChannels s.straps.role)).map fun w =>
          if w.toInt = -8388608 then .invalid
          else if w.toInt = -8388607 ∨ w.toInt = 8388607 then .fullScale w.toInt
          else .valid w.toInt
        temps := temps }
    exec (.conversionSetComplete bit) s = exec (.serialClockEdge bit) s ∧
    ((∃ y, s.port.history.getLast? = some y ∧ o.capture.later y.capture = false) →
      exec (.conversionSetComplete bit) s = .next (s.withPort { s.port with openSet := none })) ∧
    ((∀ y, s.port.history.getLast? = some y → o.capture.later y.capture = true) →
      ∃ t, exec (.conversionSetComplete bit) s = .next t ∧
        t.port =
          { openSet := none
            history := (if s.port.history.length < 8 then s.port.history else s.port.history.tail) ++ [x]
            lastTemps := temps } ∧
        (s.straps.role = .thermal ∨ s.straps.role = .clock ∨ s.assembler.queue = [] → t = s.withPort t.port) ∧
        (s.straps.role = .vector ∨ s.straps.role = .scalar → s.assembler.queue.length ≤ 4 →
          let bracketed := s.assembler.queue.map fun e =>
            if e.closed = none ∧ e.bracket = none ∧ o.capture.later e.instant = true then
              { e with bracket := some ⟨(t.port.history.filter fun y => !y.capture.later e.instant).getLast?, x⟩ }
            else e
          Releases (bracketed.map (closedIfComplete s)) (s.withPort t.port) t))

/-! ## Section 7: epoch assembly -/

/-- R99, R101, R104, R106: a base or a fast epoch instant opens an entry in roles V and S, with the items of
Figure 7-3; the base epoch reads the cadence; an instant not later than the last opened epoch opens nothing. -/
def Obligations.EpochInstantOpensAnEntry : Prop :=
  ∀ s : State, s.running = true → s.straps.role = .vector ∨ s.straps.role = .scalar → AssemblyInv s →
    s.assembler.queue.length < 4 →
    let source := if s.straps.role = .vector ∧ s.store.active.header.scalarSource ≠ 0#5
      then some s.store.active.header.scalarSource else none
    let entry := fun (kind : EpochKind) (e : HutTime) (src : Option Station) =>
      ({ instant := e, kind := kind, edition := s.store.activeEdition, wires := s.presence.wireOr
         grade := s.clock.grade, timeState := s.clock.timeState, step := s.assembler.stepMark
         scalarSource := src, bracket := none
         contribution := src.bind fun n => (s.query.heldObs n).bind fun o => if o.instant = e then some o else none
         closed := none } : Entry)
    let later := fun e : HutTime => ∀ x, s.assembler.lastOpened = some x → e.later x = true
    (s.due.base = true → s.due.promote = false →
      let cadence : Cadence := if s.presence.wireOr.storm then .storm else .base
      (later s.due.second →
        exec .baseEpoch s =
          .next ((s.withDue { s.due with base := false }).withAssembler
            { s.assembler with
              cadence := cadence, queue := s.assembler.queue ++ [entry .base s.due.second source]
              lastOpened := some s.due.second, stepMark := false })) ∧
      (¬ later s.due.second →
        exec .baseEpoch s =
          .next ((s.withDue { s.due with base := false }).withAssembler { s.assembler with cadence := cadence }))) ∧
    (∀ e, s.due.fast = some e →
      (later e →
        exec .fastEpoch s =
          .next ((s.withDue { s.due with fast := none }).withAssembler
            { s.assembler with
              queue := s.assembler.queue ++ [entry .fast e none], lastOpened := some e, stepMark := false })) ∧
      (¬ later e → exec .fastEpoch s = .next (s.withDue { s.due with fast := none })))

/-- R99, R101, R104, R107, R108, R115, R134: a role T entry, base or fast, closes at its opening and is released into
the ring with the probes' temperatures in force; a base record places a TEMP, a fast one goes to the ring alone. An
instant not later than the last opened epoch records nothing, and a base one reads the cadence all the same. -/
def Obligations.ThermalEpochIsRecordedAtOnce : Prop :=
  ∀ s : State, s.running = true → s.straps.role = .thermal → AssemblyInv s → s.store.outgoing = none →
    let later := fun e : HutTime => ∀ x, s.assembler.lastOpened = some x → e.later x = true
    let temps := fun e : HutTime =>
      match (s.port.history.filter fun x => !x.capture.later e).getLast? with
      | some x => (List.range 4).map fun i => x.temps.getD i none
      | none => [none, none, none, none]
    let content := fun (kind : EpochKind) (e : HutTime) =>
      RecordContent.epoch
        { kind := kind, instant := e, edition := s.store.activeEdition, wires := s.presence.wireOr
          grade := s.clock.grade
          quality := ⟨slotMembers ((temps e).map Option.isNone), 0#4, false, false, false, s.assembler.stepMark,
            decide (s.clock.timeState = .unset), false⟩
          slots := temps e, deltaF := none, cause := .complete, span := 0 }
    (s.due.base = true → s.due.promote = false →
      let cadence : Cadence := if s.presence.wireOr.storm then .storm else .base
      (later s.due.second →
        exec .baseEpoch s =
          .next (offerTemp ⟨.thermal, s.port.lastTemps⟩
            (ringWrite (content .base s.due.second) ((s.withDue { s.due with base := false }).withAssembler
              { s.assembler with cadence := cadence, lastOpened := some s.due.second, stepMark := false })))) ∧
      (¬ later s.due.second →
        exec .baseEpoch s =
          .next ((s.withDue { s.due with base := false }).withAssembler { s.assembler with cadence := cadence }))) ∧
    (∀ e, s.due.fast = some e →
      (later e →
        exec .fastEpoch s =
          .next (ringWrite (content .fast e) ((s.withDue { s.due with fast := none }).withAssembler
            { s.assembler with lastOpened := some e, stepMark := false }))) ∧
      (¬ later e → exec .fastEpoch s = .next (s.withDue { s.due with fast := none })))

/-- R107, R108, R171: an entry whose hold has run out closes with what it holds and is released with every
closed entry behind it; its record stands in the ring under the sequence P with the cause HOLD, and a base
record is handed to the storm detector (R118) and offered as an OBS with that record, for which a full queue makes
room (R19). The store drops the outgoing set with the last entry of its edition, and not before (R96, R121). An entry
whose hold is not over stays. -/
def Obligations.HoldExpiryClosesTheHead : Prop :=
  ∀ (s : State) (e : Entry) (rest : List Entry), s.running = true → s.straps.role = .vector ∨ s.straps.role = .scalar →
    s.assembler.queue = e :: rest → e.closed = none →
    (s.clock.time.diff e.instant < 3000000 → (∀ x ∈ rest, x.closed = none → s.clock.time.diff x.instant < 3000000) →
      exec .holdExpiry s = .next s) ∧
    (3000000 ≤ s.clock.time.diff e.instant → (∀ x ∈ rest, x.instant ≠ e.instant) →
      let k := closeField s.straps.role s.query (s.store.setFor e.edition) e .hold
      let x : Record :=
        ⟨s.straps.role, s.straps.station, s.ring.producer,
          .epoch
            { kind := e.kind, instant := e.instant, edition := e.edition, wires := e.wires, grade := e.grade
              quality := k.quality, slots := k.slots, deltaF := k.deltaF, cause := .hold, span := k.span }⟩
      ∃ t, exec .holdExpiry s = .next t ∧
        (s.assembler.queue.length ≤ 4 → Releases ({ e with closed := some k } :: rest) s t) ∧
        (∀ busy l, RoomMade busy l (obsRoom busy l)) ∧
        t.assembler.queue = rest.dropWhile (fun y => y.closed.isSome) ∧
        t.ring.producer = s.ring.producer + 1#16 + BitVec.ofNat 16 (rest.takeWhile (fun y => y.closed.isSome)).length ∧
        (rest.head?.all (fun y => y.closed.isNone) = true →
          t.ring = (ringWrite x.content s).ring ∧
          (e.kind = .base → s.accepts = true →
            t.line.obsQueue = obsRoom (s.line.activity.inFlight .obs) s.line.obsQueue ++ [.record x]) ∧
          (e.kind = .base →
            let judged := stormRecord k.slots (ringWrite x.content s)
            t.presence = judged.presence ∧ t.assembler.storm = judged.assembler.storm ∧
              t.line.flagSlot = judged.line.flagSlot ∧ t.line.activity = judged.line.activity) ∧
          (e.kind = .fast → t.line = s.line ∧ t.presence = s.presence ∧ t.assembler.storm = s.assembler.storm) ∧
          (∀ o, s.store.outgoing = some o →
            (e.edition = o.edition → (∀ y ∈ rest, y.edition ≠ o.edition) → t.store.outgoing = none) ∧
            (e.edition ≠ o.edition ∨ (∃ y ∈ rest, y.edition = o.edition) → t.store.outgoing = some o))) ∧
        t.clock = s.clock ∧ t.engine = s.engine ∧ t.port = s.port ∧ t.query = s.query ∧ t.straps = s.straps ∧
        t.restart = s.restart ∧ t.pins = s.pins ∧ t.due = s.due ∧ t.pending = s.pending ∧
        t.store.active = s.store.active ∧ t.store.activeEdition = s.store.activeEdition ∧
        t.store.pendingSet = s.store.pendingSet ∧ t.presence.peers = s.presence.peers)

/-- R110: the rounding falls on the quotient; v lies between v_a and v_b, and is v_a when t_a equals E. -/
def Obligations.InterpolationRoundsTheQuotient : Prop :=
  ∀ (va vb : Int) (ta tb e : HutTime), 0 ≤ e.diff ta → e.diff ta < tb.diff ta →
    (∃ q, interpolate va vb ta tb e = va + q ∧
      2 * ((vb - va) * e.diff ta - q * tb.diff ta).natAbs ≤ (tb.diff ta).natAbs ∧
      (2 * ((vb - va) * e.diff ta - q * tb.diff ta).natAbs = (tb.diff ta).natAbs →
        ((vb - va) * e.diff ta).natAbs < (q * tb.diff ta).natAbs)) ∧
    min va vb ≤ interpolate va vb ta tb e ∧ interpolate va vb ta tb e ≤ max va vb ∧
    (e.diff ta = 0 → interpolate va vb ta tb e = va)

/-- R113: the coefficients from points of strictly rising temperature: the end points' values at and beyond
them, and between two points the quotient rounded to nearest. -/
def Obligations.CoefficientsAreInterpolated : Prop :=
  ∀ (sel : Point → Int) (t : Int) (pts : List Point), (pts.map Point.temp).Pairwise (· < ·) →
    (∀ p, pts.head? = some p → t ≤ p.temp → coefficient sel t pts = sel p) ∧
    (∀ p, pts.getLast? = some p → p.temp ≤ t → coefficient sel t pts = sel p) ∧
    (∀ k p q, pts[k]? = some p → pts[k + 1]? = some q → p.temp ≤ t → t < q.temp →
      coefficient sel t pts = sel p + divRound ((sel q - sel p) * (t - p.temp)) (q.temp - p.temp))

/-- R109 to R114, R117, R171: a channel of a record: GAP without a bracket, without set a, with an INVALID word,
or with sets more than 250 ms apart; else a value within 2,000,000,000 pT, marked SAT at a bound and for FULL
SCALE: uncorrected without a source or points, uncorrected with TEMP_MISSING without a temperature, and else f + p + o
at the temperature chosen, TEMP_STALE where a peer's is older than the age limit at E. And how the close of an entry
fills slots, deltaF, quality set and span from the channels. -/
def Obligations.FieldChannelAtClose : Prop :=
  (∀ (role : Role) (q : QueryEngine) (set : CorrectionSet) (e : Entry) (cause : CloseCause),
    let k := closeField role q set e cause
    let n := fieldChannels role
    let ch := fun i => closeChannel q set e.bracket e.instant i
    k.cause = cause ∧ k.slots.length = 4 ∧
    (∀ i, i < n → k.slots[i]? = some (ch i).value) ∧ (∀ i, n ≤ i → i < 4 → k.slots[i]? = some none) ∧
    (∀ i, i < 4 → k.quality.gap.getLsbD i = (decide (i < n) && (ch i).value.isNone)) ∧
    (∀ i, i < 4 → k.quality.sat.getLsbD i = (decide (i < n) && (ch i).sat)) ∧
    (k.quality.tempStale = true ↔ ∃ i, i < n ∧ (ch i).stale = true) ∧
    (k.quality.tempMissing = true ↔ ∃ i, i < n ∧ (ch i).missing = true) ∧
    (k.quality.uncorrected = true ↔ ∃ i, i < n ∧ (ch i).uncorrected = true) ∧
    k.quality.step = e.step ∧ k.quality.unset = decide (e.timeState = .unset) ∧
    k.deltaF = (entryDelta role e k.slots).map Prod.fst ∧
    (k.quality.dfSat = true ↔ ∃ d, entryDelta role e k.slots = some (d, true)) ∧
    ((e.bracket = none ∨ ∃ b, e.bracket = some ⟨none, b⟩) → k.span = 0) ∧
    (∀ a b, e.bracket = some ⟨some a, b⟩ → k.span = min 16777215 (b.capture.diff a.capture).toNat)) ∧
  ∀ (q : QueryEngine) (set : CorrectionSet) (e : HutTime) (i : Nat),
    closeChannel q set none e i = .gap ∧
    (∀ b, closeChannel q set (some ⟨none, b⟩) e i = .gap) ∧
    (∀ a b : SampleSet,
      ((a.fields.getD i .invalid) = .invalid ∨ (b.fields.getD i .invalid) = .invalid ∨
        2500000 < b.capture.diff a.capture → closeChannel q set (some ⟨some a, b⟩) e i = .gap) ∧
      (∀ va vb ch, (a.fields.getD i .invalid).value = some va → (b.fields.getD i .invalid).value = some vb →
        b.capture.diff a.capture ≤ 2500000 → set.channels[i]? = some ch →
        ∃ v, (closeChannel q set (some ⟨some a, b⟩) e i).value = some v ∧
          -2000000000 ≤ v ∧ v ≤ 2000000000 ∧
          (v = 2000000000 ∨ v = -2000000000 → (closeChannel q set (some ⟨some a, b⟩) e i).sat = true) ∧
          ((a.fields.getD i .invalid).isFullScale = true ∨ (b.fields.getD i .invalid).isFullScale = true →
            (closeChannel q set (some ⟨some a, b⟩) e i).sat = true) ∧
          (ch.base.source = .none ∨ ch.base.pointCount = 0 →
            (closeChannel q set (some ⟨some a, b⟩) e i).uncorrected = true ∧
            v = max (-2000000000) (min 2000000000
              (divRound (interpolate va vb a.capture b.capture e * (ch.base.gain : Int)) 65536))) ∧
          (ch.base.source = .peer → ch.base.pointCount ≠ 0 → q.heldTemps ch.base.station = none →
            (closeChannel q set (some ⟨some a, b⟩) e i).missing = true) ∧
          let out := closeChannel q set (some ⟨some a, b⟩) e i
          let f := divRound (interpolate va vb a.capture b.capture e * (ch.base.gain : Int)) 65536
          let points := ch.points.take ch.base.pointCount
          let full := (a.fields.getD i .invalid).isFullScale || (b.fields.getD i .invalid).isFullScale
          let plain := fun x : Int =>
            out.value = some (max (-2000000000) (min 2000000000 x)) ∧
              out.sat = (full || decide (2000000000 ≤ x) || decide (x ≤ -2000000000))
          let missing := plain f ∧ out.missing = true ∧ out.stale = false ∧ out.uncorrected = false
          let corrected := fun (t : Int) (stale : Bool) =>
            plain (f + divRound (f * coefficient Point.scale t points) 1000000 + coefficient Point.offset t points) ∧
              out.missing = false ∧ out.stale = stale ∧ out.uncorrected = false
          (ch.base.source = .none ∨ ch.base.pointCount = 0 →
            plain f ∧ out.missing = false ∧ out.stale = false ∧ out.uncorrected = true) ∧
          (ch.base.pointCount ≠ 0 →
            (ch.base.source = .localTS → (∀ t, a.temps.getD 0 none = some t → corrected t false) ∧
              (a.temps.getD 0 none = none → missing)) ∧
            (ch.base.source = .localTE → (∀ t, a.temps.getD 1 none = some t → corrected t false) ∧
              (a.temps.getD 1 none = none → missing)) ∧
            (ch.base.source = .peer →
              (q.heldTemps ch.base.station = none → missing) ∧
              ∀ held, q.heldTemps ch.base.station = some held → 1 ≤ ch.base.probe →
                (held.temps.length < ch.base.probe → missing) ∧
                (held.temps[ch.base.probe - 1]? = some (-32768) → missing) ∧
                ∀ t, held.temps[ch.base.probe - 1]? = some t → t ≠ -32768 →
                  corrected t (decide ((set.header.ageLimit : Int) * 10000000 < e.diff held.arrival))))))

/-- R116: deltaF exists under four conditions, is F_s less the root of the sum of squares rounded to nearest,
held within 32,767 with DF_SAT at a bound. -/
def Obligations.DeltaFIsTheScalarDifference : Prop :=
  ∀ (role : Role) (e : Entry) (slots : List (Option Int)),
    (∀ d sat, entryDelta role e slots = some (d, sat) →
      role = .vector ∧ e.kind = .base ∧ ∃ fs x y z, e.contribution = some ⟨e.instant, some fs⟩ ∧
        slots.getD 0 none = some x ∧ slots.getD 1 none = some y ∧ slots.getD 2 none = some z) ∧
    (∀ fs x y z : Int, role = .vector → e.kind = .base → e.contribution = some ⟨e.instant, some fs⟩ →
      slots.getD 0 none = some x → slots.getD 1 none = some y → slots.getD 2 none = some z →
      x.natAbs ≤ 2000000000 → y.natAbs ≤ 2000000000 → z.natAbs ≤ 2000000000 →
      ∃ r : Nat,
        4 * (x * x + y * y + z * z) < (2 * (r : Int) + 1) * (2 * (r : Int) + 1) ∧
        (r ≠ 0 → (2 * (r : Int) - 1) * (2 * (r : Int) - 1) < 4 * (x * x + y * y + z * z)) ∧
        entryDelta role e slots =
          some (max (-32767) (min 32767 (fs - (r : Int))),
            decide (32767 ≤ fs - (r : Int)) || decide (fs - (r : Int) ≤ -32767)))

/-- R118 with Figure 7-7: what the storm detector does with one base record: a GAP changes nothing, a record without
reference values becomes the reference, and any other is judged by the threshold H, its events handed to the
presence block (R31), where a change of the own STORM offers a FLAG and recomputes the wire OR, and a value held
already is no change (R29, R32, R35). -/
def Obligations.StormDetectorJudgesBaseRecords : Prop :=
  (∀ (b : Bool) (s : State),
    (s.presence.own.storm = b → setOwnStorm b s = s) ∧
    (s.presence.own.storm ≠ b →
      let own : WireSet := { s.presence.own with storm := b }
      setOwnStorm b s =
        (s.withPresence { s.presence with own := own, wireOr := hutOr own s.presence.peers }).withLine
          (if s.accepts then
            { s.line with flagSlot := some own, activity := s.line.activity.replacedAt .flag }
          else s.line))) ∧
  ∀ (s : State) (slots : List (Option Int)), slots.length = 4 →
    let h := s.store.active.header.stormThreshold
    let d := s.assembler.storm
    let n := fieldChannels s.straps.role
    ((∃ i, i < n ∧ slots.getD i none = none) → stormRecord slots s = s) ∧
    (∀ values : List Int, slots.take n = values.map some →
      let now := fun d' : StormDetector => s.withAssembler { s.assembler with storm := { d' with reference := some values } }
      (d.reference = none → stormRecord slots s = now d) ∧
      (∀ ref, d.reference = some ref →
        let deltas := (values.zip ref).map fun p => (p.1 - p.2).natAbs
        (h = 0 → stormRecord slots s = now d) ∧
        (h ≠ 0 → d.asserted = false → (∀ x ∈ deltas, x < h) → stormRecord slots s = now { d with onset := 0 }) ∧
        (h ≠ 0 → d.asserted = false → (∃ x ∈ deltas, h ≤ x) → d.onset < 2 →
          stormRecord slots s = now { d with onset := d.onset + 1 }) ∧
        (h ≠ 0 → d.asserted = false → (∃ x ∈ deltas, h ≤ x) → d.onset = 2 →
          stormRecord slots s = setOwnStorm true (now { d with asserted := true, onset := 0, quiet := 0 })) ∧
        (h ≠ 0 → d.asserted = true → (∃ x ∈ deltas, divRound h 2 ≤ (x : Int)) →
          stormRecord slots s = now { d with quiet := 0 }) ∧
        (h ≠ 0 → d.asserted = true → (∀ x ∈ deltas, (x : Int) < divRound h 2) → d.quiet < 59 →
          stormRecord slots s = now { d with quiet := d.quiet + 1 }) ∧
        (h ≠ 0 → d.asserted = true → (∀ x ∈ deltas, (x : Int) < divRound h 2) → d.quiet = 59 →
          stormRecord slots s = setOwnStorm false (now { d with asserted := false, onset := 0, quiet := 0 }))))

/-! ## Section 8: subscriptions and queries -/

/-- R128, R129: at a whole second every aged TEMP entry of a PRESENT station without a query gets one, in the
table's order, while a place is free. Each new query has the entry's station and number, the present time, and the
first tag from the counter on that no pending query carries; the counter then stands one past it. Its ASK joins the
queue; an ASK that found the queue full would be discarded (log entry 22). -/
def Obligations.AgedSubscriptionsAreAsked : Prop :=
  ∀ s : State, s.running = true → s.due.consider = true → QueryInv s.query →
    let aged := fun e : Subscription =>
      match e.content with
      | .temp none => true
      | .temp (some h) => decide ((s.store.active.header.ageLimit : Int) * 10000000 < s.clock.time.diff h.arrival)
      | .obs _ => false
    let eligible := (s.query.subs.zipIdx 1).filter fun p =>
      aged p.1 && !(s.query.queries.any fun q => decide (q.index = p.2)) &&
        decide ((s.presence.peer p.1.station).presence = .present) &&
        decide (s.line.standing = .normal ∨ s.line.standing = .restrained)
    ∃ (t : State) (new : List PendingQuery), exec .queryConsideration s = .next t ∧
      t = ((s.withDue { s.due with consider := false }).withQuery
            { s.query with queries := s.query.queries ++ new, tagCounter := t.query.tagCounter }).withLine
          { s.line with
            askQueue := s.line.askQueue ++
              (new.map fun q => (⟨q.target, q.tag⟩ : OwnAsk)).take (4 - s.line.askQueue.length) } ∧
      new.map (fun q => (q.target, q.index, q.issue)) =
        (eligible.take (4 - s.query.queries.length)).map (fun p => (p.1.station, p.2, s.clock.time)) ∧
      (∀ i q, new[i]? = some q →
        let carried := s.query.queries ++ new.take i
        let counter := match (new.take i).getLast? with | some x => x.tag + 1#4 | none => s.query.tagCounter
        ∃ d, d < 16 ∧ q.tag = counter + BitVec.ofNat 4 d ∧ (∀ x ∈ carried, x.tag ≠ q.tag) ∧
          ∀ j, j < d → ∃ x ∈ carried, x.tag = counter + BitVec.ofNat 4 j) ∧
      t.query.tagCounter = match new.getLast? with | some x => x.tag + 1#4 | none => s.query.tagCounter

/-- R18, R130, R132: a query times out 250 ms after its issue; it is retired, its waiting ASK removed, and
QUERY_TIMEOUT set. What retiring does, at a timeout or at an absence. -/
def Obligations.QueryTimesOut : Prop :=
  (∀ (s : State) (tag : BitVec 4) (q : PendingQuery), s.running = true → QueryInv s.query → q ∈ s.query.queries →
    q.tag = tag →
    (s.clock.time.diff q.issue < 2500000 → exec (.queryTimeout tag) s = .next s) ∧
    (2500000 ≤ s.clock.time.diff q.issue →
      exec (.queryTimeout tag) s =
        .next ((retireQueries (fun x => decide (x.tag = tag)) s).withConditions
          { s.conditions with queryTimeout := true }))) ∧
  (∀ (s : State) (gone : PendingQuery → Bool), ∃ asks,
    retireQueries gone s =
      (s.withQuery { s.query with queries := s.query.queries.filter fun q => !gone q }).withLine
        { s.line with askQueue := asks } ∧
    let retired := fun a : OwnAsk => s.query.queries.any fun q => gone q && decide (q.target = a.target ∧ q.tag = a.tag)
    (s.line.activity.inFlight .ask = false → asks = s.line.askQueue.filter fun a => !retired a) ∧
    (s.line.activity.inFlight .ask = true →
      asks = s.line.askQueue.take 1 ++ (s.line.askQueue.drop 1).filter fun a => !retired a))

/-- R125, R131: a good TEMP, and a good DONE reply to a pending TEMP NOW, fill the subscription entry with
the list and the present hut time; the answered query is retired. A list for no entry or no query is lost, as is a
reply to another asker or to another question; a matching reply with another status, or with a count out of range
or not that of its length, retires its query and writes nothing. That temperatures outside -5,000 to 8,000 are held
as they come is log entry 19, that retiring an answered query removes its waiting ASK is log entry 22, and that a
wrong length counts as a count out of range is log entry 29 (all DEDUCED). -/
def Obligations.TemperaturesFillTheSubscription : Prop :=
  ∀ (s : State) (src : Station) (temps : List Int), Takes src s → 1 ≤ temps.length → temps.length ≤ 4 →
    (∀ x ∈ temps, -32768 ≤ x ∧ x ≤ 32767) →
    let count := BitVec.ofNat 8 temps.length
    let list := temps.flatMap (beSigned 2)
    let fill := fun e : Subscription => { e with content := .temp (some ⟨temps, s.clock.time⟩) }
    (∀ role : Byte, role.toNat ≤ 3 →
      exec (.tempReceived src (role :: count :: list)) s =
        .next (scored ((received src s).withQuery
          { s.query with
            subs := s.query.subs.map fun e => if e.station = src ∧ e.isTemp = true then fill e else e }))) ∧
    (∀ tag : Byte,
      (∀ q ∈ s.query.queries, ¬ (q.target = src ∧ q.tag.toNat = tag.toNat)) →
      exec (.replyReceived src ([BitVec.ofNat 8 s.straps.station.toNat, tag, 8#8, 0#8, count] ++ list)) s =
        .next (scored (received src s))) ∧
    (∀ (q : PendingQuery) (e : Subscription), QueryInv s.query → q ∈ s.query.queries → q.target = src →
      s.query.subs[q.index - 1]? = some e → e.isTemp = true →
      exec (.replyReceived src
          ([BitVec.ofNat 8 s.straps.station.toNat, BitVec.ofNat 8 q.tag.toNat, 8#8, 0#8, count] ++ list)) s =
        .next (scored (retireQueries (fun x => decide (x.target = src ∧ x.tag = q.tag))
          ((received src s).withQuery { s.query with subs := s.query.subs.set (q.index - 1) (fill e) })))) ∧
    (∀ (q : PendingQuery) (st : Byte) (rest : List Byte), QueryInv s.query → q ∈ s.query.queries → q.target = src →
      st.toNat ≤ 7 →
      (st ≠ 0#8 ∨ rest = [] ∨ byteAt rest 0 = 0#8 ∨ 4 < (byteAt rest 0).toNat ∨
        rest.length ≠ 1 + 2 * (byteAt rest 0).toNat) →
      exec (.replyReceived src ([BitVec.ofNat 8 s.straps.station.toNat, BitVec.ofNat 8 q.tag.toNat, 8#8, st] ++ rest)) s =
        .next (scored (retireQueries (fun x => decide (x.target = src ∧ x.tag = q.tag)) (received src s)))) ∧
    (∀ p : List Byte, (byteAt p 0).toNat ≠ s.straps.station.toNat ∨ byteAt p 2 ≠ 8#8 →
      exec (.replyReceived src p) s = .next (scored (received src s)))

/-- R106 to R108, R126: a role S base record from the scalar source replaces the OBS entry's content and is handed
to the assembler; from any other station it is lost. There it becomes the contribution of the open entry with its
instant that awaits this station; an entry that then has all it awaits closes complete, and the closed entries at
the head are released. With no entry queued, nothing else changes. A record of role V, T or C and a fence reply are
discarded, from whatever station they come. -/
def Obligations.ScalarObsFillsTheSubscription : Prop :=
  (∀ (s : State) (src : Station) (x : Record) (c : EpochContent), Takes src s → x.role = .scalar →
    x.content = .epoch c → c.kind = .base → c.instant.wf = true → c.grade ≤ 7 →
    (∀ v, c.slots.getD 0 none = some v → -2147483648 < v ∧ v < 2147483648) →
    ((∀ e ∈ s.query.subs, ¬ (e.station = src ∧ e.isTemp = false)) →
      exec (.obsReceived src (0#8 :: recordBytes x)) s = .next (scored (received src s))) ∧
    ((∃ e ∈ s.query.subs, e.station = src ∧ e.isTemp = false) → s.assembler.queue = [] →
      exec (.obsReceived src (0#8 :: recordBytes x)) s =
        .next (scored ((received src s).withQuery
          { s.query with
            subs := s.query.subs.map fun e =>
              if e.station = src ∧ e.isTemp = false then
                { e with content := .obs (some ⟨c.instant, c.slots.getD 0 none⟩) }
              else e }))) ∧
    ((∃ e ∈ s.query.subs, e.station = src ∧ e.isTemp = false) →
      s.straps.role = .vector ∨ s.straps.role = .scalar → s.assembler.queue.length ≤ 4 →
      let o : ScalarObs := ⟨c.instant, c.slots.getD 0 none⟩
      let held := (received src s).withQuery
        { s.query with
          subs := s.query.subs.map fun e =>
            if e.station = src ∧ e.isTemp = false then { e with content := .obs (some o) } else e }
      let given := s.assembler.queue.map fun e =>
        if e.closed = none ∧ e.instant = c.instant ∧ e.scalarSource = some src then { e with contribution := some o } else e
      ∃ t, exec (.obsReceived src (0#8 :: recordBytes x)) s = .next (scored t) ∧
        Releases (given.map (closedIfComplete held)) held t)) ∧
  (∀ (s : State) (src : Station) (x : Record), Takes src s → x.role ≠ .scalar →
    exec (.obsReceived src (0#8 :: recordBytes x)) s = .next (scored (received src s))) ∧
  ∀ (s : State) (src : Station) (f : FenceReply), Takes src s →
    exec (.obsReceived src (payloadBytes (.obs (.fence f)))) s = .next (scored (received src s))

/-! ## Section 6: the correction store -/

/-- R86 to R88: TABLE READ: DONE with the part as it stands in the set named, RANGE without a part, REFUSED
in roles T and C. -/
def Obligations.TableReadShowsThePart : Prop :=
  ∀ (a : Ask) (s : State), Asked a s →
    let c := s.store
    let state : TableState := ⟨c.working, c.activeEdition, c.pendingState⟩
    (s.straps.role = .thermal ∨ s.straps.role = .clock → a.operands.length = 4 →
      exec (.tableRead a) s = .next (answered a 4#8 .refused (.table state) (received a.source s))) ∧
    (∀ (addr : PartAddress) (set : CorrectionSet) (working : Bool),
      s.straps.role = .vector ∨ s.straps.role = .scalar → addr.inRange s.straps.role = true → SetShape s.straps.role set →
      set = (if working then (match c.pendingSet with | some p => p.content | none => c.active) else c.active) →
      a.operands = addressBytes addr ++ [if working then 1#8 else 0#8] →
      ∃ content, partOf set addr = some content ∧
        exec (.tableRead a) s = .next (answered a 4#8 .done (.part state addr content) (received a.source s))) ∧
    (∀ kind channel slot source : Byte, s.straps.role = .vector ∨ s.straps.role = .scalar →
      a.operands = [kind, channel, slot, source] →
      (2 < kind.toNat ∨ 1 < source.toNat ∨
        (kind ≠ 0#8 ∧ (channel = 0#8 ∨ fieldChannels s.straps.role < channel.toNat)) ∨
        (kind = 2#8 ∧ (slot = 0#8 ∨ 8 < slot.toNat))) →
      exec (.tableRead a) s = .next (answered a 4#8 .range (.table state) (received a.source s)))

/-- Figure 6-6, R82, R83, R87, R89, R90: TABLE WRITE in its order: REFUSED, BUSY, STALE, RANGE, DONE; the ranges of
header, channel base and point; and that the written part reads back while the other parts stay. That bytes of a
part address which its kind does not use are disregarded is log entry 20 (DESIGN CHOICE). -/
def Obligations.TableWriteIsJudgedInOrder : Prop :=
  (∀ (r : Role) (own : Station) (e1 e0 channel slot : Byte),
    (∀ (kind : Byte) (content : List Byte), 2 < kind.toNat →
      writeTarget r own ([e1, e0, kind, channel, slot] ++ content) = none) ∧
    (∀ (threshold age : Nat) (source : Byte), threshold < 16777216 → age < 65536 →
      writeTarget r own ([e1, e0, 0#8, channel, slot] ++ beBytes 3 threshold ++ [source] ++ beBytes 2 age) =
        if (threshold = 0 ∨ (100 ≤ threshold ∧ threshold ≤ 1000000)) ∧
            (source = 0#8 ∨ (r ≠ .scalar ∧ 1 ≤ source.toNat ∧ source.toNat ≤ 30 ∧ source.toNat ≠ own.toNat)) ∧
            1 ≤ age ∧ age ≤ 600 then
          some (.header, .header ⟨threshold, BitVec.ofNat 5 source.toNat, age⟩)
        else none) ∧
    (∀ (gain : Nat) (kind : SourceKind) (station probe count : Byte), gain < 16777216 →
      writeTarget r own ([e1, e0, 1#8, channel, slot] ++ beBytes 3 gain ++ [kind.code, station, probe, count]) =
        if 1 ≤ channel.toNat ∧ channel.toNat ≤ fieldChannels r ∧ 1 ≤ gain ∧ count.toNat ≤ 8 ∧
            (kind = .localTE → r = .vector) ∧ (kind ≠ .peer → station = 0#8 ∧ probe = 0#8) ∧
            (kind = .peer → 1 ≤ station.toNat ∧ station.toNat ≤ 30 ∧ station.toNat ≠ own.toNat ∧
              1 ≤ probe.toNat ∧ probe.toNat ≤ 4) then
          some (.base channel.toNat, .base ⟨gain, kind, BitVec.ofNat 5 station.toNat, probe.toNat, count.toNat⟩)
        else none) ∧
    (∀ (code : Byte) (x y : List Byte), 3 < code.toNat → x.length = 3 →
      writeTarget r own ([e1, e0, 1#8, channel, slot] ++ x ++ [code] ++ y) = none) ∧
    (∀ t scale offset : Int, -32768 ≤ t → t ≤ 32767 → -32768 ≤ scale → scale ≤ 32767 → -8388608 ≤ offset →
      offset ≤ 8388607 →
      writeTarget r own ([e1, e0, 2#8, channel, slot] ++ beSigned 2 t ++ beSigned 2 scale ++ beSigned 3 offset) =
        if 1 ≤ channel.toNat ∧ channel.toNat ≤ fieldChannels r ∧ 1 ≤ slot.toNat ∧ slot.toNat ≤ 8 ∧
            -5000 ≤ t ∧ t ≤ 8000 ∧ -10000 ≤ scale ∧ scale ≤ 10000 ∧ -1000000 ≤ offset ∧ offset ≤ 1000000 then
          some (.point channel.toNat slot.toNat, .point ⟨t, scale, offset⟩)
        else none)) ∧
  (∀ (r : Role) (own : Station) (ops : List Byte) (base : CorrectionSet) (addr : PartAddress) (content : PartContent),
    SetShape r base → writeTarget r own ops = some (addr, content) →
    partOf (replacePart base addr content) addr = some content ∧ SetShape r (replacePart base addr content) ∧
    ∀ other, other ≠ addr → other.inRange r = true →
      partOf (replacePart base addr content) other = partOf base other) ∧
  ∀ (a : Ask) (s : State), Asked a s → writeLengthOk a.operands = true →
    let c := s.store
    let edition := BitVec.ofNat 16 (beNat (a.operands.take 2))
    let fields := s.straps.role = .vector ∨ s.straps.role = .scalar
    let working := match c.pendingSet with | some p => p.edition | none => c.activeEdition
    let scheduled := ∃ p, c.pendingSet = some p ∧ p.scheduled = true
    let refuse := fun st : Status =>
      exec (.tableWrite a) s =
        .next (answered a 5#8 st (.table ⟨working, c.activeEdition, c.pendingState⟩) (received a.source s))
    (¬ fields → refuse .refused) ∧
    (fields → scheduled → refuse .busy) ∧
    (fields → ¬ scheduled → edition ≠ working → refuse .stale) ∧
    (fields → ¬ scheduled → edition = working → writeTarget s.straps.role s.straps.station a.operands = none →
      refuse .range) ∧
    (∀ addr content, fields → ¬ scheduled → edition = working →
      writeTarget s.straps.role s.straps.station a.operands = some (addr, content) →
      let base := match c.pendingSet with | some p => p.content | none => c.active
      let next := if working = 65535#16 then 1#16 else working + 1#16
      exec (.tableWrite a) s =
        .next (answered a 5#8 .done (.table ⟨next, c.activeEdition, .isOpen⟩)
          ((received a.source s).withStore { c with pendingSet := some ⟨replacePart base addr content, next, false⟩ })))

/-- Figure 6-7, R91, R92 and R93: TABLE COMMIT in its order, the failing channel and slot at validation, and
TABLE DISCARD. -/
def Obligations.TableCommitAndDiscard : Prop :=
  ∀ (a : Ask) (s : State), Asked a s →
    let c := s.store
    let fields := s.straps.role = .vector ∨ s.straps.role = .scalar
    let state : TableState := ⟨c.working, c.activeEdition, c.pendingState⟩
    let commit := fun (st : Status) (body : ReplyBody) (store : CorrectionStore) =>
      exec (.tableCommit a) s = .next (answered a 6#8 st body ((received a.source s).withStore store))
    let discard := fun (st : Status) (body : ReplyBody) (store : CorrectionStore) =>
      exec (.tableDiscard a) s = .next (answered a 7#8 st body ((received a.source s).withStore store))
    (∀ edition : BitVec 16, a.operands = beBytes 2 edition.toNat →
      (¬ fields → commit .refused (.table state) c) ∧
      (fields → c.pendingSet = none → commit .empty (.table state) c) ∧
      (∀ p, fields → c.pendingSet = some p → p.scheduled = true → commit .busy (.table state) c) ∧
      (∀ p, fields → c.pendingSet = some p → p.scheduled = false → edition ≠ p.edition → commit .stale (.table state) c) ∧
      (∀ p, fields → c.pendingSet = some p → p.scheduled = false → edition = p.edition → PointsRise p.content →
        commit .done (.table { state with pending := .scheduled }) { c with pendingSet := some { p with scheduled := true } }) ∧
      (∀ p, fields → c.pendingSet = some p → p.scheduled = false → edition = p.edition → ¬ PointsRise p.content →
        ∃ n k ch, commit .range (.commitFailure state (n + 1) (k + 2)) c ∧ p.content.channels[n]? = some ch ∧
          k + 2 ≤ ch.base.pointCount ∧
          (∃ x y, ch.points[k]? = some x ∧ ch.points[k + 1]? = some y ∧ y.temp ≤ x.temp) ∧
          (∀ j x y, j < k → ch.points[j]? = some x → ch.points[j + 1]? = some y → x.temp < y.temp) ∧
          (∀ m d, m < n → p.content.channels[m]? = some d → ((d.points.take d.base.pointCount).map Point.temp).Pairwise (· < ·)))) ∧
    (a.operands = [] →
      (¬ fields → discard .refused (.table state) c) ∧
      (fields → c.pendingSet = none → discard .empty (.table state) c) ∧
      (∀ p, fields → c.pendingSet = some p → p.scheduled = true → discard .busy (.table state) c) ∧
      (∀ p, fields → c.pendingSet = some p → p.scheduled = false →
        discard .done (.table ⟨c.activeEdition, c.activeEdition, .none⟩) { c with pendingSet := none }))

/-- R94, R95, R119, R124, R137: a promotion: the sets change places, the subscriptions are rebuilt, the
PROMOTE note is written with the whole second of the promotion (log entry 32 for one taken late), and a threshold
of 0 takes STORM back, with its wire OR and FLAG (R29, R31, R35; `setOwnStorm` is StormDetectorJudgesBaseRecords'). The
ring and the conditions are as the ring's write of the note leaves them. A pending query whose entry recurs follows it to its new number; one whose entry is dropped
is retired with its ASK, should that still wait and not be in flight, and sets no QUERY_TIMEOUT. -/
def Obligations.PromotionChangesTheActiveSet : Prop :=
  ∀ (s : State) (p : PendingSet), s.running = true → s.due.promote = true → s.store.pendingSet = some p →
    p.scheduled = true →
    let place := fun q : PendingQuery => (s.query.subs[q.index - 1]?).bind fun e =>
      (buildSubs p.content).findIdx? fun o => decide (o.station = e.station) && o.isTemp == e.isTemp
    let dropped := fun a : OwnAsk =>
      s.query.queries.any fun q => (place q).isNone && decide (q.target = a.target ∧ q.tag = a.tag)
    ∃ t, exec .promotion s = .next t ∧
      t.store = { active := p.content, activeEdition := p.edition, loadedRole := s.straps.role, pendingSet := none
                  outgoing := some ⟨s.store.active, s.store.activeEdition⟩ } ∧
      t.ring.producer = s.ring.producer + 1#16 ∧
      t.ring.recordAt s.ring.producer =
        some ⟨s.straps.role, s.straps.station, s.ring.producer, .note s.due.second (.promote p.edition)⟩ ∧
      t.query.subs = (buildSubs p.content).map (carryOver s.query.subs) ∧
      t.query.queries = s.query.queries.filterMap (fun q => (place q).map fun i => { q with index := i + 1 }) ∧
      t.query.tagCounter = s.query.tagCounter ∧
      t.ring = (ringWrite (.note s.due.second (.promote p.edition)) s).ring ∧
      t.conditions = (ringWrite (.note s.due.second (.promote p.edition)) s).conditions ∧
      t.conditions.queryTimeout = s.conditions.queryTimeout ∧
      (s.line.activity.inFlight .ask = false → t.line.askQueue = s.line.askQueue.filter fun a => !dropped a) ∧
      (s.line.activity.inFlight .ask = true →
        t.line.askQueue = s.line.askQueue.take 1 ++ (s.line.askQueue.drop 1).filter fun a => !dropped a) ∧
      (p.content.header.stormThreshold ≠ 0 →
        t.assembler = s.assembler ∧ t.presence = s.presence ∧ t.line = { s.line with askQueue := t.line.askQueue }) ∧
      (p.content.header.stormThreshold = 0 →
        t.assembler = { s.assembler with storm := { s.assembler.storm with asserted := false, onset := 0, quiet := 0 } } ∧
        (s.assembler.storm.asserted = false →
          t.presence = s.presence ∧ t.line = { s.line with askQueue := t.line.askQueue }) ∧
        (s.assembler.storm.asserted = true →
          t.presence.own = { s.presence.own with storm := false } ∧
          t.presence = (setOwnStorm false s).presence ∧
          t.line = { (setOwnStorm false s).line with askQueue := t.line.askQueue })) ∧
      t.presence.peers = s.presence.peers ∧ t.clock = s.clock ∧ t.engine = s.engine ∧ t.port = s.port ∧
      t.straps = s.straps ∧ t.restart = s.restart ∧ t.pins = s.pins ∧ t.pending = s.pending ∧
      t.due = { s.due with promote := false } ∧ t.line.score = s.line.score ∧ t.line.standing = s.line.standing ∧
      t.line.replyQueue = s.line.replyQueue ∧ t.line.obsQueue = s.line.obsQueue ∧ t.line.markSlot = s.line.markSlot

/-! ## Section 9: the record ring -/

/-- R139: the ring's write: the four steps of one event, every other place as it stood. -/
def Obligations.RingWriteIsOneEvent : Prop :=
  ∀ (s : State) (content : RecordContent),
    let full := (s.ring.producer - s.ring.consumer).toNat = 1024
    ∃ r, ringWrite content s = (s.withRing r).withConditions { s.conditions with lapped := r.consumer ≠ s.ring.consumer || s.conditions.lapped } ∧
      (full → r.consumer = s.ring.consumer + 1#16) ∧ (¬ full → r.consumer = s.ring.consumer) ∧
      r.recordAt s.ring.producer = some ⟨s.straps.role, s.straps.station, s.ring.producer, content⟩ ∧
      (∀ q : BitVec 16, q.toNat % 1024 ≠ s.ring.producer.toNat % 1024 → r.recordAt q = s.ring.recordAt q) ∧
      r.producer = s.ring.producer + 1#16 ∧
      (s.ring.written < 1024 → r.written = s.ring.written + 1) ∧ (1024 ≤ s.ring.written → r.written = s.ring.written) ∧
      r.marker = s.ring.marker

/-- R142 and R145: CONSUME judges s by its distance behind P, and its reply carries P and C as they stand afterwards.
The CONSUME of a record that a lapping write of the same moment has given up is answered TOO_OLD, and a write of a full
ring gives up the record at C so. That R145's TOO_OLD holds at that moment and R142's RANGE at every other for a record
more than 1,024 behind P, and that the moment lasts to the next oscillator edge, is the model's choice (log entry 34). -/
def Obligations.ConsumeJudgesTheDistance : Prop :=
  ∀ (a : Ask) (s : State) (q : BitVec 16), Asked a s → a.operands = beBytes 2 q.toNat →
    let k := (s.ring.producer - q).toNat
    let unconsumed := (s.ring.producer - s.ring.consumer).toNat
    let refuse := fun st : Status =>
      exec (.consume a) s = .next (answered a 3#8 st (.ring s.ring.producer s.ring.consumer) (received a.source s))
    (1 ≤ k → k ≤ unconsumed →
      exec (.consume a) s =
        .next (answered a 3#8 .done (.ring s.ring.producer (q + 1#16))
          ((received a.source s).withRing { s.ring with consumer := q + 1#16 }))) ∧
    (1 ≤ k → unconsumed < k → k ≤ 1024 → refuse .tooOld) ∧
    (k = 0 → refuse .range) ∧
    (1024 < k → unconsumed < k → q ∈ s.ring.lappedNow → refuse .tooOld) ∧
    (1024 < k → unconsumed < k → q ∉ s.ring.lappedNow → refuse .range) ∧
    ∀ content, (unconsumed = 1024 → (ringWrite content s).ring.lappedNow = s.ring.lappedNow ++ [s.ring.consumer]) ∧
      (unconsumed ≠ 1024 → (ringWrite content s).ring.lappedNow = s.ring.lappedNow) ∧
      (unconsumed = 1024 → q = s.ring.consumer →
        let w := ringWrite content s
        exec (.consume a) w = .next (answered a 3#8 .tooOld (.ring (s.ring.producer + 1#16) (q + 1#16)) (received a.source w)))

/-- Figure 9-3, R143 and R144: READ WINDOW in its order; DONE places the snapshots of m records in ascending
sequence, the last with the end marker. -/
def Obligations.ReadWindowSendsTheRecords : Prop :=
  ∀ (a : Ask) (s : State) (f : BitVec 16) (n : Byte), Asked a s → RingInv s.ring →
    a.operands = beBytes 2 f.toNat ++ [n] →
    let k := (s.ring.producer - f).toNat
    let m := min n.toNat k
    let free := 8 - s.line.replyQueue.length
    let refuse := fun st : Status =>
      exec (.readWindow a) s = .next (answered a 2#8 st (.ring s.ring.producer s.ring.consumer) (received a.source s))
    (n.toNat = 0 ∨ 8 < n.toNat → refuse .range) ∧
    (1 ≤ n.toNat → n.toNat ≤ 8 → s.ring.written < k → k ≤ 1024 → refuse .tooOld) ∧
    (1 ≤ n.toNat → n.toNat ≤ 8 → k = 0 ∨ 1024 < k → refuse .range) ∧
    (1 ≤ n.toNat → n.toNat ≤ 8 → 1 ≤ k → k ≤ s.ring.written → free < m → refuse .busy) ∧
    (1 ≤ n.toNat → n.toNat ≤ 8 → 1 ≤ k → k ≤ s.ring.written → m ≤ free →
      ∃ replies : List Reply, exec (.readWindow a) s = .next (scored (withReplies (received a.source s) replies)) ∧
        replies.length = m ∧
        ∀ i, i < m → ∃ x, s.ring.recordAt (f + BitVec.ofNat 16 i) = some x ∧ x.seq = f + BitVec.ofNat 16 i ∧
          replies[i]? = some ⟨a.source, a.tag, 2#8, .done, .window (f + BitVec.ofNat 16 i) (decide (i + 1 = m)) x⟩)

/-! ## Section 10: questions -/

/-- R153, R133, R151: STATUS is answered with the snapshot of Figure 10-3, TEMP NOW with the last valid local
temperatures, a code that names no question with UNKNOWN. That the snapshot shows score and standing before the
change that the STATUS's own packet makes is log entry 8 (DEDUCED). -/
def Obligations.StatusTempNowAndUnknown : Prop :=
  ∀ (a : Ask) (s : State),
    (AskedAll a s → a.operands = [] →
      exec (.status a) s =
        .next (answered a 1#8 .done
          (.status
            { time := s.clock.time, timeState := s.clock.timeState, grade := s.clock.grade
              locked := s.clock.refLocked, rateTrim := s.clock.rateTrim, lastCorrection := s.engine.lastCorrection
              standing := s.line.standing, score := s.line.score, activeEdition := s.store.activeEdition
              workingEdition := (match s.store.pendingSet with | some p => p.edition | none => s.store.activeEdition)
              pendingState := s.store.pendingState, producer := s.ring.producer, consumer := s.ring.consumer
              conditions := s.conditions, own := s.presence.own, lastKind := s.restart.lastKind })
          (received a.source s))) ∧
    (Asked a s → a.operands = [] →
      exec (.tempNow a) s = .next (answered a 8#8 .done (.temps s.port.lastTemps) (received a.source s))) ∧
    (∀ code : Byte, Asked a s → code = 0#8 ∨ 11 < code.toNat →
      exec (.unknownQuestion a code) s = .next (answered a code .unknown .empty (received a.source s)))

/-- R19, R155, R158: FENCE joins the OBS queue behind the base records, a full queue losing the oldest OBS packet
that is neither the fence reply nor in flight, or is BUSY while one is queued or in flight; CLEAR CONDITIONS clears
the named conditions and shows all five, and refuses any other bit with RANGE (its body is log entry 21's). That an
ASK is taken while an own packet is in flight is log entry 31. -/
def Obligations.FenceAndClearConditions : Prop :=
  (∀ busy l, RoomMade busy l (obsRoom busy l)) ∧
  ∀ (a : Ask) (s : State),
    (AskedAll a s → a.operands = [] →
      ((∀ f, .fence f ∉ s.line.obsQueue) →
        exec (.fence a) s =
          .next (scored ((received a.source s).withLine
            { (received a.source s).line with
              obsQueue := obsRoom (s.line.activity.inFlight .obs) s.line.obsQueue ++ [.fence ⟨a.source, a.tag, s.clock.time, s.ring.producer⟩] }))) ∧
      ((∃ f, .fence f ∈ s.line.obsQueue) →
        exec (.fence a) s = .next (answered a 9#8 .busy .empty (received a.source s)))) ∧
    (∀ b : Byte, Asked a s → a.operands = [b] →
      (b.toNat < 32 →
        let c : Conditions :=
          ⟨s.conditions.duplicate && !b.getLsbD 0, s.conditions.partialSet && !b.getLsbD 1,
            s.conditions.lapped && !b.getLsbD 2, s.conditions.stepped && !b.getLsbD 3,
            s.conditions.queryTimeout && !b.getLsbD 4⟩
        exec (.clearConditions a) s =
          .next (answered a 10#8 .done (.conditions c) ((received a.source s).withConditions c))) ∧
      (32 ≤ b.toNat → exec (.clearConditions a) s = .next (answered a 10#8 .range .empty (received a.source s))))

/-- R149, R150, R151: an ASK that is not this node's, that cannot be answered, or that meets another standing or
a full REPLY queue, is heard and scored and nothing more, whatever its question; one of the wrong operand length is
answered RANGE. ASKs are taken on an idle line, while a packet is being received, and from other stations while an own
packet is in flight or at the moment its send has ended (R150's last paragraph; log entry 31). Where the node takes none, and where ASK_DROPPED is commanded for an ASK that is
accepted, nothing happens (log entry 2, DESIGN CHOICE). -/
def Obligations.AskIsDroppedOrJudged : Prop :=
  (∀ (src : Station) (s : State),
    s.takesAsk src = true ↔
      s.running = true ∧ (s.line.activity = .idle ∨ (∃ c, s.line.activity = .receiving c) ∨
        (src ≠ s.straps.station ∧ ((∃ sd, s.line.activity = .sending sd) ∨
          (s.line.activity = .waiting ∧ s.line.sendEnded = true))))) ∧
  (∀ (a : Ask) (pins : StrapPins) (s : State) (code : Byte) (p : List Byte), s.takesAsk a.source = false →
    ∀ c ∈ [Instr.status a, .readWindow a, .consume a, .tableRead a, .tableWrite a, .tableCommit a, .tableDiscard a,
        .tempNow a, .fence a, .clearConditions a, .restartWarm a pins, .restartCold a pins, .unknownQuestion a code,
        .askDropped a.source p],
      exec c s = .next s) ∧
  ∀ (a : Ask) (pins : StrapPins) (s : State), TakesAsk a.source s →
    let silent := .next (scored (received a.source s))
    let dropped := ¬ Numbered a.source ∨ 15 < a.tag.toNat ∨
      ¬ (s.line.standing = .normal ∨ s.line.standing = .restrained) ∨ 8 ≤ s.line.replyQueue.length
    let other := a.target.toNat ≠ s.straps.station.toNat
    (dropped ∨ other →
      exec (.readWindow a) s = silent ∧ exec (.consume a) s = silent ∧ exec (.tableRead a) s = silent ∧
      exec (.tableWrite a) s = silent ∧ exec (.tableCommit a) s = silent ∧ exec (.tableDiscard a) s = silent ∧
      exec (.tempNow a) s = silent ∧ exec (.clearConditions a) s = silent ∧ exec (.restartWarm a pins) s = silent ∧
      exec (.restartCold a pins) s = silent ∧
      (∀ code, code = 0#8 ∨ 11 < code.toNat → exec (.unknownQuestion a code) s = silent) ∧
      (∀ code, code ≠ 1#8 → code ≠ 9#8 →
        exec (.askDropped a.source (a.target :: a.tag :: code :: a.operands)) s = silent)) ∧
    (dropped ∨ (other ∧ a.target ≠ 0#8) → exec (.status a) s = silent ∧ exec (.fence a) s = silent ∧
      ∀ code, exec (.askDropped a.source (a.target :: a.tag :: code :: a.operands)) s = silent) ∧
    (Asked a s → ∀ code, exec (.askDropped a.source (a.target :: a.tag :: code :: a.operands)) s = .next s) ∧
    (AskedAll a s → ∀ code, code = 1#8 ∨ code = 9#8 →
      exec (.askDropped a.source (a.target :: a.tag :: code :: a.operands)) s = .next s) ∧
    (∀ p : List Byte, p.length < 3 → exec (.askDropped a.source p) s = silent) ∧
    (AskedAll a s → a.operands ≠ [] →
      exec (.status a) s = .next (answered a 1#8 .range .empty (received a.source s)) ∧
      exec (.fence a) s = .next (answered a 9#8 .range .empty (received a.source s))) ∧
    (Asked a s →
      (a.operands.length ≠ 3 → exec (.readWindow a) s = .next (answered a 2#8 .range .empty (received a.source s))) ∧
      (a.operands.length ≠ 2 →
        exec (.consume a) s = .next (answered a 3#8 .range .empty (received a.source s)) ∧
        exec (.tableCommit a) s = .next (answered a 6#8 .range .empty (received a.source s))) ∧
      (a.operands.length ≠ 4 → exec (.tableRead a) s = .next (answered a 4#8 .range .empty (received a.source s))) ∧
      (writeLengthOk a.operands = false → exec (.tableWrite a) s = .next (answered a 5#8 .range .empty (received a.source s))) ∧
      (a.operands ≠ [] →
        exec (.tableDiscard a) s = .next (answered a 7#8 .range .empty (received a.source s)) ∧
        exec (.tempNow a) s = .next (answered a 8#8 .range .empty (received a.source s))) ∧
      (a.operands.length ≠ 1 →
        exec (.clearConditions a) s = .next (answered a 10#8 .range .empty (received a.source s))) ∧
      (a.operands ≠ [0#8] → a.operands ≠ [1#8] →
        exec (.restartWarm a pins) s = .next (answered a 11#8 .range .empty (received a.source s))))

/-! ## Section 11: restart -/

/-- R164, R165, R166: the entry of a restart, the rise of the supply with which the 100 ms begin, and the commands
that complete the restart, once both causes have ended. That SUPPLY_RECOVERY carries both the rise and the end of
the 100 ms is log entry 16 (DESIGN CHOICE). -/
def Obligations.RestartIsEnteredAndCompleted : Prop :=
  (∀ s : State, ∃ l : LineInterface,
    (s.line.activity = .waiting ∨ s.line.activity = .idle → l = s.line) ∧
    (∀ c, s.line.activity = .receiving c → l = { s.line with activity := .waiting, quiet := 0, joinCount := 0 }) ∧
    (∀ sd, s.line.activity = .sending sd →
      AfterSend sd s.line.cycle s.line.sendEnded s.line l ∧ l.score = s.line.score ∧ l.standing = s.line.standing) ∧
    exec .supplyFall s =
      .next (((s.withLine l).withRing { s.ring with marker := false }).withRestart
        { s.restart with supplyHold := true, supplyLow := true, supplyTicks := 0 }) ∧
    (s.restart.resetLow = false →
      exec .resetAsserted s = .next ((s.withLine l).withRestart { s.restart with resetLow := true })) ∧
    (s.restart.resetLow = true → exec .resetAsserted s = .next s)) ∧
  (∀ (s : State) (pins : StrapPins),
    (s.restart.resetLow = true → s.restart.supplyHold = false →
      exec (.resetReleased pins) s = .next (completeRestart pins (s.withRestart { s.restart with resetLow := false }))) ∧
    (s.restart.resetLow = true → s.restart.supplyHold = true →
      exec (.resetReleased pins) s = .next (s.withRestart { s.restart with resetLow := false })) ∧
    (s.restart.supplyHold = true → s.restart.supplyLow = true →
      exec (.supplyRecovery .rises) s = .next (s.withRestart { s.restart with supplyLow := false, supplyTicks := 0 })) ∧
    (s.restart.supplyHold = false ∨ s.restart.supplyLow = false → exec (.supplyRecovery .rises) s = .next s) ∧
    (s.restart.supplyHold = true → s.restart.supplyLow = false → 1000000 ≤ s.restart.supplyTicks →
      (s.restart.resetLow = false →
        exec (.supplyRecovery (.stayed pins)) s =
          .next (completeRestart pins (s.withRestart { s.restart with supplyHold := false }))) ∧
      (s.restart.resetLow = true →
        exec (.supplyRecovery (.stayed pins)) s = .next (s.withRestart { s.restart with supplyHold := false }))) ∧
    (s.restart.supplyHold = false ∨ s.restart.supplyLow = true ∨ s.restart.supplyTicks < 1000000 →
      exec (.supplyRecovery (.stayed pins)) s = .next s))

/-- R159, R160: an accepted RESTART WARM or COLD restarts the node in the same event, a COLD one after the
retention marker is cleared; no reply, and every packet queued or in flight is lost (what the restart leaves is
RestartKeepsWhatItsKindKeeps). That it is taken while an own packet is in flight is log entry 31. -/
def Obligations.RestartRequestRestartsTheNode : Prop :=
  ∀ (a : Ask) (pins : StrapPins) (s : State), Asked a s →
    (a.operands = [0#8] → exec (.restartWarm a pins) s = .next (completeRestart pins s)) ∧
    (a.operands = [1#8] →
      exec (.restartCold a pins) s = .next (completeRestart pins (s.withRing { s.ring with marker := false })) ∧
      (completeRestart pins (s.withRing { s.ring with marker := false })).restart.lastKind = .cold) ∧
    (completeRestart pins s).line.replyQueue = [] ∧ (completeRestart pins s).line.activity = .waiting

/-- Figure 11-4, R22, R38, R53, R54, R80, R97, R122, R135, R148, R157, R162, R166, R167: what a completed restart
under a valid station strap leaves, warm and cold; a warm one keeps the ring, but for the RESTART note's write. -/
def Obligations.RestartKeepsWhatItsKindKeeps : Prop :=
  ∀ (s : State) (pins : StrapPins), pins.station ≠ 0#5 → pins.station ≠ 31#5 →
    let t := completeRestart pins s
    let kind : RestartKind := if s.ring.marker then .warm else .cold
    let role : Role := match pins.role.toNat with | 0 => .vector | 1 => .scalar | 2 => .thermal | _ => .clock
    t.straps = ⟨pins.station, role, pins.rate⟩ ∧ t.restart.lastKind = kind ∧ t.held = false ∧
    t.line = ⟨.joining, 0, .waiting, 0, 0, none, none, [], [], [], none, none, 1, false, false⟩ ∧
    t.presence = ⟨List.replicate 30 ⟨.unknown, none, .unset, none, none, .clear⟩, 0, 0, .clear, .clear⟩ ∧
    t.engine = ⟨t.clock.time, none, 0⟩ ∧ t.port = ⟨none, [], List.replicate (tempChannels role) none⟩ ∧
    t.query = ⟨buildSubs t.store.active, [], 0#4⟩ ∧ t.store.pendingSet = none ∧ t.store.outgoing = none ∧
    t.store.loadedRole = role ∧ t.pending = s.pending ∧ t.pins = s.pins ∧ t.due = Due.clear ∧
    (kind = .cold →
      t.clock = ⟨⟨0#32, 0⟩, 0, 0, 0, .unset, 7, 0#8, none, false, 20000000, []⟩ ∧
      t.store.active = defaultSet role ∧ t.store.activeEdition = 0#16 ∧
      t.assembler = ⟨[], none, .base, false, ⟨false, 0, 0, none⟩⟩ ∧ t.conditions = .clear ∧
      t.ring = ⟨[(0, ⟨role, pins.station, 0#16, .note ⟨0#32, 0⟩ (.restart .cold)⟩)], 1#16, 0#16, 1, true, []⟩) ∧
    (kind = .warm →
      t.clock = ⟨s.clock.time, 0, s.clock.rateTrim, 0, s.clock.timeState, 7, 0#8, none, false, 20000000, []⟩ ∧
      (s.store.loadedRole = role → s.store.active.names pins.station = false →
        t.store.active = s.store.active ∧ t.store.activeEdition = s.store.activeEdition) ∧
      (s.store.loadedRole ≠ role ∨ s.store.active.names pins.station = true →
        t.store.active = defaultSet role ∧ t.store.activeEdition = 0#16) ∧
      t.assembler = ⟨[], s.assembler.lastOpened, .base, false, ⟨false, 0, 0, none⟩⟩ ∧
      t.ring = (ringWrite (.note s.clock.time (.restart .warm)) (s.withStraps t.straps)).ring ∧
      t.ring.producer = s.ring.producer + 1#16 ∧ t.ring.marker = true ∧
      ((s.ring.producer - s.ring.consumer).toNat ≠ 1024 → t.ring.consumer = s.ring.consumer) ∧
      (∀ q : BitVec 16, q.toNat % 1024 ≠ s.ring.producer.toNat % 1024 → t.ring.recordAt q = s.ring.recordAt q) ∧
      t.ring.recordAt s.ring.producer =
        some ⟨role, pins.station, s.ring.producer, .note s.clock.time (.restart .warm)⟩ ∧
      t.conditions = ⟨false, false, decide ((s.ring.producer - s.ring.consumer).toNat = 1024), false, false⟩)

/-- R22, R37, R79, R147, R163: a restart under station strap 0 or 31: STRAP FAULT, the ring untouched, no note. In
that standing, and while the part is held between the entry and the completion of a restart (R165), no command but
those of the supply, the RESET pin, the oscillator, the disturbance inputs, LOCK and MARK_OFFER does anything: no
packet is taken, no ASK, no receive fault, no bit, SYNC or PPS edge, no send begins, no round ends, no epoch,
promotion, expiry or query takes place. The inputs only show their levels (log entry 12), a MARK only spends its
number, and while the part is held not even that; the oscillator counts hut time, ends the moment of a
lapping write (log entry 34), and while the part is held makes nothing due. -/
def Obligations.StrapFaultIsInert : Prop :=
  (∀ (s : State) (pins : StrapPins), pins.station = 0#5 ∨ pins.station = 31#5 →
    (completeRestart pins s).line.standing = .strapFault ∧ (completeRestart pins s).ring = s.ring ∧
    (completeRestart pins s).conditions = .clear ∧
    (completeRestart pins s).restart.lastKind = if s.ring.marker then .warm else .cold) ∧
  (∀ (s : State) (c : Instr), s.line.standing = .strapFault ∨ s.held = true →
    match c with
    | .supplyFall => True
    | .supplyRecovery _ => True
    | .resetAsserted => True
    | .resetReleased _ => True
    | .oscillatorEdge =>
      ∃ k r d, exec .oscillatorEdge s =
          .next ((((s.withClock k).withRestart r).withDue d).withRing { s.ring with lappedNow := [] }) ∧
        (s.held = true → d = s.due) ∧
        (d = s.due ∨ ∃ sec, d = { Due.clear with second := ⟨sec, 0⟩, mark := true })
    | .markOffer =>
      (s.held = true → exec .markOffer s = .next s) ∧
      ∃ k d, exec .markOffer s = .next ((s.withDue d).withClock { s.clock with markSeq := k })
    | .disturbanceInputChange .door active =>
      exec (.disturbanceInputChange .door active) s = .next (s.withPins { s.pins with dist0 := active })
    | .disturbanceInputChange .heater active =>
      exec (.disturbanceInputChange .heater active) s = .next (s.withPins { s.pins with dist1 := active })
    | .lockChange active => exec (.lockChange active) s = .next (s.withPins { s.pins with lock := active })
    | c => exec c s = .next s)
end

