-- ==== Sys2Proof/Laws/State.lean ====
section
/-! SUPPORT. What each update of `State` does to each of its fields, true by `rfl`. -/

namespace Sys2Proof.Machine

/-! ### withLine -/

@[simp] theorem State.withLine_line (s : State) (x : LineInterface) : (s.withLine x).line = x := rfl
@[simp] theorem State.withLine_presence (s : State) (x : LineInterface) : (s.withLine x).presence = s.presence := rfl
@[simp] theorem State.withLine_clock (s : State) (x : LineInterface) : (s.withLine x).clock = s.clock := rfl
@[simp] theorem State.withLine_engine (s : State) (x : LineInterface) : (s.withLine x).engine = s.engine := rfl
@[simp] theorem State.withLine_port (s : State) (x : LineInterface) : (s.withLine x).port = s.port := rfl
@[simp] theorem State.withLine_store (s : State) (x : LineInterface) : (s.withLine x).store = s.store := rfl
@[simp] theorem State.withLine_assembler (s : State) (x : LineInterface) : (s.withLine x).assembler = s.assembler := rfl
@[simp] theorem State.withLine_query (s : State) (x : LineInterface) : (s.withLine x).query = s.query := rfl
@[simp] theorem State.withLine_ring (s : State) (x : LineInterface) : (s.withLine x).ring = s.ring := rfl
@[simp] theorem State.withLine_conditions (s : State) (x : LineInterface) : (s.withLine x).conditions = s.conditions := rfl
@[simp] theorem State.withLine_straps (s : State) (x : LineInterface) : (s.withLine x).straps = s.straps := rfl
@[simp] theorem State.withLine_restart (s : State) (x : LineInterface) : (s.withLine x).restart = s.restart := rfl
@[simp] theorem State.withLine_pins (s : State) (x : LineInterface) : (s.withLine x).pins = s.pins := rfl
@[simp] theorem State.withLine_due (s : State) (x : LineInterface) : (s.withLine x).due = s.due := rfl
@[simp] theorem State.withLine_pending (s : State) (x : LineInterface) : (s.withLine x).pending = s.pending := rfl
@[simp] theorem State.withLine_withLine (s : State) (x y : LineInterface) : (s.withLine x).withLine y = s.withLine y := rfl
@[simp] theorem State.withLine_self (s : State) : s.withLine s.line = s := rfl

/-! ### withPresence -/

@[simp] theorem State.withPresence_line (s : State) (x : PresenceBlock) : (s.withPresence x).line = s.line := rfl
@[simp] theorem State.withPresence_presence (s : State) (x : PresenceBlock) : (s.withPresence x).presence = x := rfl
@[simp] theorem State.withPresence_clock (s : State) (x : PresenceBlock) : (s.withPresence x).clock = s.clock := rfl
@[simp] theorem State.withPresence_engine (s : State) (x : PresenceBlock) : (s.withPresence x).engine = s.engine := rfl
@[simp] theorem State.withPresence_port (s : State) (x : PresenceBlock) : (s.withPresence x).port = s.port := rfl
@[simp] theorem State.withPresence_store (s : State) (x : PresenceBlock) : (s.withPresence x).store = s.store := rfl
@[simp] theorem State.withPresence_assembler (s : State) (x : PresenceBlock) : (s.withPresence x).assembler = s.assembler := rfl
@[simp] theorem State.withPresence_query (s : State) (x : PresenceBlock) : (s.withPresence x).query = s.query := rfl
@[simp] theorem State.withPresence_ring (s : State) (x : PresenceBlock) : (s.withPresence x).ring = s.ring := rfl
@[simp] theorem State.withPresence_conditions (s : State) (x : PresenceBlock) : (s.withPresence x).conditions = s.conditions := rfl
@[simp] theorem State.withPresence_straps (s : State) (x : PresenceBlock) : (s.withPresence x).straps = s.straps := rfl
@[simp] theorem State.withPresence_restart (s : State) (x : PresenceBlock) : (s.withPresence x).restart = s.restart := rfl
@[simp] theorem State.withPresence_pins (s : State) (x : PresenceBlock) : (s.withPresence x).pins = s.pins := rfl
@[simp] theorem State.withPresence_due (s : State) (x : PresenceBlock) : (s.withPresence x).due = s.due := rfl
@[simp] theorem State.withPresence_pending (s : State) (x : PresenceBlock) : (s.withPresence x).pending = s.pending := rfl
@[simp] theorem State.withPresence_withPresence (s : State) (x y : PresenceBlock) : (s.withPresence x).withPresence y = s.withPresence y := rfl
@[simp] theorem State.withPresence_self (s : State) : s.withPresence s.presence = s := rfl

/-! ### withClock -/

@[simp] theorem State.withClock_line (s : State) (x : HutClock) : (s.withClock x).line = s.line := rfl
@[simp] theorem State.withClock_presence (s : State) (x : HutClock) : (s.withClock x).presence = s.presence := rfl
@[simp] theorem State.withClock_clock (s : State) (x : HutClock) : (s.withClock x).clock = x := rfl
@[simp] theorem State.withClock_engine (s : State) (x : HutClock) : (s.withClock x).engine = s.engine := rfl
@[simp] theorem State.withClock_port (s : State) (x : HutClock) : (s.withClock x).port = s.port := rfl
@[simp] theorem State.withClock_store (s : State) (x : HutClock) : (s.withClock x).store = s.store := rfl
@[simp] theorem State.withClock_assembler (s : State) (x : HutClock) : (s.withClock x).assembler = s.assembler := rfl
@[simp] theorem State.withClock_query (s : State) (x : HutClock) : (s.withClock x).query = s.query := rfl
@[simp] theorem State.withClock_ring (s : State) (x : HutClock) : (s.withClock x).ring = s.ring := rfl
@[simp] theorem State.withClock_conditions (s : State) (x : HutClock) : (s.withClock x).conditions = s.conditions := rfl
@[simp] theorem State.withClock_straps (s : State) (x : HutClock) : (s.withClock x).straps = s.straps := rfl
@[simp] theorem State.withClock_restart (s : State) (x : HutClock) : (s.withClock x).restart = s.restart := rfl
@[simp] theorem State.withClock_pins (s : State) (x : HutClock) : (s.withClock x).pins = s.pins := rfl
@[simp] theorem State.withClock_due (s : State) (x : HutClock) : (s.withClock x).due = s.due := rfl
@[simp] theorem State.withClock_pending (s : State) (x : HutClock) : (s.withClock x).pending = s.pending := rfl
@[simp] theorem State.withClock_withClock (s : State) (x y : HutClock) : (s.withClock x).withClock y = s.withClock y := rfl
@[simp] theorem State.withClock_self (s : State) : s.withClock s.clock = s := rfl

/-! ### withEngine -/

@[simp] theorem State.withEngine_line (s : State) (x : Engine) : (s.withEngine x).line = s.line := rfl
@[simp] theorem State.withEngine_presence (s : State) (x : Engine) : (s.withEngine x).presence = s.presence := rfl
@[simp] theorem State.withEngine_clock (s : State) (x : Engine) : (s.withEngine x).clock = s.clock := rfl
@[simp] theorem State.withEngine_engine (s : State) (x : Engine) : (s.withEngine x).engine = x := rfl
@[simp] theorem State.withEngine_port (s : State) (x : Engine) : (s.withEngine x).port = s.port := rfl
@[simp] theorem State.withEngine_store (s : State) (x : Engine) : (s.withEngine x).store = s.store := rfl
@[simp] theorem State.withEngine_assembler (s : State) (x : Engine) : (s.withEngine x).assembler = s.assembler := rfl
@[simp] theorem State.withEngine_query (s : State) (x : Engine) : (s.withEngine x).query = s.query := rfl
@[simp] theorem State.withEngine_ring (s : State) (x : Engine) : (s.withEngine x).ring = s.ring := rfl
@[simp] theorem State.withEngine_conditions (s : State) (x : Engine) : (s.withEngine x).conditions = s.conditions := rfl
@[simp] theorem State.withEngine_straps (s : State) (x : Engine) : (s.withEngine x).straps = s.straps := rfl
@[simp] theorem State.withEngine_restart (s : State) (x : Engine) : (s.withEngine x).restart = s.restart := rfl
@[simp] theorem State.withEngine_pins (s : State) (x : Engine) : (s.withEngine x).pins = s.pins := rfl
@[simp] theorem State.withEngine_due (s : State) (x : Engine) : (s.withEngine x).due = s.due := rfl
@[simp] theorem State.withEngine_pending (s : State) (x : Engine) : (s.withEngine x).pending = s.pending := rfl
@[simp] theorem State.withEngine_withEngine (s : State) (x y : Engine) : (s.withEngine x).withEngine y = s.withEngine y := rfl
@[simp] theorem State.withEngine_self (s : State) : s.withEngine s.engine = s := rfl

/-! ### withPort -/

@[simp] theorem State.withPort_line (s : State) (x : SamplePort) : (s.withPort x).line = s.line := rfl
@[simp] theorem State.withPort_presence (s : State) (x : SamplePort) : (s.withPort x).presence = s.presence := rfl
@[simp] theorem State.withPort_clock (s : State) (x : SamplePort) : (s.withPort x).clock = s.clock := rfl
@[simp] theorem State.withPort_engine (s : State) (x : SamplePort) : (s.withPort x).engine = s.engine := rfl
@[simp] theorem State.withPort_port (s : State) (x : SamplePort) : (s.withPort x).port = x := rfl
@[simp] theorem State.withPort_store (s : State) (x : SamplePort) : (s.withPort x).store = s.store := rfl
@[simp] theorem State.withPort_assembler (s : State) (x : SamplePort) : (s.withPort x).assembler = s.assembler := rfl
@[simp] theorem State.withPort_query (s : State) (x : SamplePort) : (s.withPort x).query = s.query := rfl
@[simp] theorem State.withPort_ring (s : State) (x : SamplePort) : (s.withPort x).ring = s.ring := rfl
@[simp] theorem State.withPort_conditions (s : State) (x : SamplePort) : (s.withPort x).conditions = s.conditions := rfl
@[simp] theorem State.withPort_straps (s : State) (x : SamplePort) : (s.withPort x).straps = s.straps := rfl
@[simp] theorem State.withPort_restart (s : State) (x : SamplePort) : (s.withPort x).restart = s.restart := rfl
@[simp] theorem State.withPort_pins (s : State) (x : SamplePort) : (s.withPort x).pins = s.pins := rfl
@[simp] theorem State.withPort_due (s : State) (x : SamplePort) : (s.withPort x).due = s.due := rfl
@[simp] theorem State.withPort_pending (s : State) (x : SamplePort) : (s.withPort x).pending = s.pending := rfl
@[simp] theorem State.withPort_withPort (s : State) (x y : SamplePort) : (s.withPort x).withPort y = s.withPort y := rfl
@[simp] theorem State.withPort_self (s : State) : s.withPort s.port = s := rfl

/-! ### withStore -/

@[simp] theorem State.withStore_line (s : State) (x : CorrectionStore) : (s.withStore x).line = s.line := rfl
@[simp] theorem State.withStore_presence (s : State) (x : CorrectionStore) : (s.withStore x).presence = s.presence := rfl
@[simp] theorem State.withStore_clock (s : State) (x : CorrectionStore) : (s.withStore x).clock = s.clock := rfl
@[simp] theorem State.withStore_engine (s : State) (x : CorrectionStore) : (s.withStore x).engine = s.engine := rfl
@[simp] theorem State.withStore_port (s : State) (x : CorrectionStore) : (s.withStore x).port = s.port := rfl
@[simp] theorem State.withStore_store (s : State) (x : CorrectionStore) : (s.withStore x).store = x := rfl
@[simp] theorem State.withStore_assembler (s : State) (x : CorrectionStore) : (s.withStore x).assembler = s.assembler := rfl
@[simp] theorem State.withStore_query (s : State) (x : CorrectionStore) : (s.withStore x).query = s.query := rfl
@[simp] theorem State.withStore_ring (s : State) (x : CorrectionStore) : (s.withStore x).ring = s.ring := rfl
@[simp] theorem State.withStore_conditions (s : State) (x : CorrectionStore) : (s.withStore x).conditions = s.conditions := rfl
@[simp] theorem State.withStore_straps (s : State) (x : CorrectionStore) : (s.withStore x).straps = s.straps := rfl
@[simp] theorem State.withStore_restart (s : State) (x : CorrectionStore) : (s.withStore x).restart = s.restart := rfl
@[simp] theorem State.withStore_pins (s : State) (x : CorrectionStore) : (s.withStore x).pins = s.pins := rfl
@[simp] theorem State.withStore_due (s : State) (x : CorrectionStore) : (s.withStore x).due = s.due := rfl
@[simp] theorem State.withStore_pending (s : State) (x : CorrectionStore) : (s.withStore x).pending = s.pending := rfl
@[simp] theorem State.withStore_withStore (s : State) (x y : CorrectionStore) : (s.withStore x).withStore y = s.withStore y := rfl
@[simp] theorem State.withStore_self (s : State) : s.withStore s.store = s := rfl

/-! ### withAssembler -/

@[simp] theorem State.withAssembler_line (s : State) (x : Assembler) : (s.withAssembler x).line = s.line := rfl
@[simp] theorem State.withAssembler_presence (s : State) (x : Assembler) : (s.withAssembler x).presence = s.presence := rfl
@[simp] theorem State.withAssembler_clock (s : State) (x : Assembler) : (s.withAssembler x).clock = s.clock := rfl
@[simp] theorem State.withAssembler_engine (s : State) (x : Assembler) : (s.withAssembler x).engine = s.engine := rfl
@[simp] theorem State.withAssembler_port (s : State) (x : Assembler) : (s.withAssembler x).port = s.port := rfl
@[simp] theorem State.withAssembler_store (s : State) (x : Assembler) : (s.withAssembler x).store = s.store := rfl
@[simp] theorem State.withAssembler_assembler (s : State) (x : Assembler) : (s.withAssembler x).assembler = x := rfl
@[simp] theorem State.withAssembler_query (s : State) (x : Assembler) : (s.withAssembler x).query = s.query := rfl
@[simp] theorem State.withAssembler_ring (s : State) (x : Assembler) : (s.withAssembler x).ring = s.ring := rfl
@[simp] theorem State.withAssembler_conditions (s : State) (x : Assembler) : (s.withAssembler x).conditions = s.conditions := rfl
@[simp] theorem State.withAssembler_straps (s : State) (x : Assembler) : (s.withAssembler x).straps = s.straps := rfl
@[simp] theorem State.withAssembler_restart (s : State) (x : Assembler) : (s.withAssembler x).restart = s.restart := rfl
@[simp] theorem State.withAssembler_pins (s : State) (x : Assembler) : (s.withAssembler x).pins = s.pins := rfl
@[simp] theorem State.withAssembler_due (s : State) (x : Assembler) : (s.withAssembler x).due = s.due := rfl
@[simp] theorem State.withAssembler_pending (s : State) (x : Assembler) : (s.withAssembler x).pending = s.pending := rfl
@[simp] theorem State.withAssembler_withAssembler (s : State) (x y : Assembler) : (s.withAssembler x).withAssembler y = s.withAssembler y := rfl
@[simp] theorem State.withAssembler_self (s : State) : s.withAssembler s.assembler = s := rfl

/-! ### withQuery -/

@[simp] theorem State.withQuery_line (s : State) (x : QueryEngine) : (s.withQuery x).line = s.line := rfl
@[simp] theorem State.withQuery_presence (s : State) (x : QueryEngine) : (s.withQuery x).presence = s.presence := rfl
@[simp] theorem State.withQuery_clock (s : State) (x : QueryEngine) : (s.withQuery x).clock = s.clock := rfl
@[simp] theorem State.withQuery_engine (s : State) (x : QueryEngine) : (s.withQuery x).engine = s.engine := rfl
@[simp] theorem State.withQuery_port (s : State) (x : QueryEngine) : (s.withQuery x).port = s.port := rfl
@[simp] theorem State.withQuery_store (s : State) (x : QueryEngine) : (s.withQuery x).store = s.store := rfl
@[simp] theorem State.withQuery_assembler (s : State) (x : QueryEngine) : (s.withQuery x).assembler = s.assembler := rfl
@[simp] theorem State.withQuery_query (s : State) (x : QueryEngine) : (s.withQuery x).query = x := rfl
@[simp] theorem State.withQuery_ring (s : State) (x : QueryEngine) : (s.withQuery x).ring = s.ring := rfl
@[simp] theorem State.withQuery_conditions (s : State) (x : QueryEngine) : (s.withQuery x).conditions = s.conditions := rfl
@[simp] theorem State.withQuery_straps (s : State) (x : QueryEngine) : (s.withQuery x).straps = s.straps := rfl
@[simp] theorem State.withQuery_restart (s : State) (x : QueryEngine) : (s.withQuery x).restart = s.restart := rfl
@[simp] theorem State.withQuery_pins (s : State) (x : QueryEngine) : (s.withQuery x).pins = s.pins := rfl
@[simp] theorem State.withQuery_due (s : State) (x : QueryEngine) : (s.withQuery x).due = s.due := rfl
@[simp] theorem State.withQuery_pending (s : State) (x : QueryEngine) : (s.withQuery x).pending = s.pending := rfl
@[simp] theorem State.withQuery_withQuery (s : State) (x y : QueryEngine) : (s.withQuery x).withQuery y = s.withQuery y := rfl
@[simp] theorem State.withQuery_self (s : State) : s.withQuery s.query = s := rfl

/-! ### withRing -/

@[simp] theorem State.withRing_line (s : State) (x : Ring) : (s.withRing x).line = s.line := rfl
@[simp] theorem State.withRing_presence (s : State) (x : Ring) : (s.withRing x).presence = s.presence := rfl
@[simp] theorem State.withRing_clock (s : State) (x : Ring) : (s.withRing x).clock = s.clock := rfl
@[simp] theorem State.withRing_engine (s : State) (x : Ring) : (s.withRing x).engine = s.engine := rfl
@[simp] theorem State.withRing_port (s : State) (x : Ring) : (s.withRing x).port = s.port := rfl
@[simp] theorem State.withRing_store (s : State) (x : Ring) : (s.withRing x).store = s.store := rfl
@[simp] theorem State.withRing_assembler (s : State) (x : Ring) : (s.withRing x).assembler = s.assembler := rfl
@[simp] theorem State.withRing_query (s : State) (x : Ring) : (s.withRing x).query = s.query := rfl
@[simp] theorem State.withRing_ring (s : State) (x : Ring) : (s.withRing x).ring = x := rfl
@[simp] theorem State.withRing_conditions (s : State) (x : Ring) : (s.withRing x).conditions = s.conditions := rfl
@[simp] theorem State.withRing_straps (s : State) (x : Ring) : (s.withRing x).straps = s.straps := rfl
@[simp] theorem State.withRing_restart (s : State) (x : Ring) : (s.withRing x).restart = s.restart := rfl
@[simp] theorem State.withRing_pins (s : State) (x : Ring) : (s.withRing x).pins = s.pins := rfl
@[simp] theorem State.withRing_due (s : State) (x : Ring) : (s.withRing x).due = s.due := rfl
@[simp] theorem State.withRing_pending (s : State) (x : Ring) : (s.withRing x).pending = s.pending := rfl
@[simp] theorem State.withRing_withRing (s : State) (x y : Ring) : (s.withRing x).withRing y = s.withRing y := rfl
@[simp] theorem State.withRing_self (s : State) : s.withRing s.ring = s := rfl

/-! ### withConditions -/

@[simp] theorem State.withConditions_line (s : State) (x : Conditions) : (s.withConditions x).line = s.line := rfl
@[simp] theorem State.withConditions_presence (s : State) (x : Conditions) : (s.withConditions x).presence = s.presence := rfl
@[simp] theorem State.withConditions_clock (s : State) (x : Conditions) : (s.withConditions x).clock = s.clock := rfl
@[simp] theorem State.withConditions_engine (s : State) (x : Conditions) : (s.withConditions x).engine = s.engine := rfl
@[simp] theorem State.withConditions_port (s : State) (x : Conditions) : (s.withConditions x).port = s.port := rfl
@[simp] theorem State.withConditions_store (s : State) (x : Conditions) : (s.withConditions x).store = s.store := rfl
@[simp] theorem State.withConditions_assembler (s : State) (x : Conditions) : (s.withConditions x).assembler = s.assembler := rfl
@[simp] theorem State.withConditions_query (s : State) (x : Conditions) : (s.withConditions x).query = s.query := rfl
@[simp] theorem State.withConditions_ring (s : State) (x : Conditions) : (s.withConditions x).ring = s.ring := rfl
@[simp] theorem State.withConditions_conditions (s : State) (x : Conditions) : (s.withConditions x).conditions = x := rfl
@[simp] theorem State.withConditions_straps (s : State) (x : Conditions) : (s.withConditions x).straps = s.straps := rfl
@[simp] theorem State.withConditions_restart (s : State) (x : Conditions) : (s.withConditions x).restart = s.restart := rfl
@[simp] theorem State.withConditions_pins (s : State) (x : Conditions) : (s.withConditions x).pins = s.pins := rfl
@[simp] theorem State.withConditions_due (s : State) (x : Conditions) : (s.withConditions x).due = s.due := rfl
@[simp] theorem State.withConditions_pending (s : State) (x : Conditions) : (s.withConditions x).pending = s.pending := rfl
@[simp] theorem State.withConditions_withConditions (s : State) (x y : Conditions) : (s.withConditions x).withConditions y = s.withConditions y := rfl
@[simp] theorem State.withConditions_self (s : State) : s.withConditions s.conditions = s := rfl

/-! ### withStraps -/

@[simp] theorem State.withStraps_line (s : State) (x : Straps) : (s.withStraps x).line = s.line := rfl
@[simp] theorem State.withStraps_presence (s : State) (x : Straps) : (s.withStraps x).presence = s.presence := rfl
@[simp] theorem State.withStraps_clock (s : State) (x : Straps) : (s.withStraps x).clock = s.clock := rfl
@[simp] theorem State.withStraps_engine (s : State) (x : Straps) : (s.withStraps x).engine = s.engine := rfl
@[simp] theorem State.withStraps_port (s : State) (x : Straps) : (s.withStraps x).port = s.port := rfl
@[simp] theorem State.withStraps_store (s : State) (x : Straps) : (s.withStraps x).store = s.store := rfl
@[simp] theorem State.withStraps_assembler (s : State) (x : Straps) : (s.withStraps x).assembler = s.assembler := rfl
@[simp] theorem State.withStraps_query (s : State) (x : Straps) : (s.withStraps x).query = s.query := rfl
@[simp] theorem State.withStraps_ring (s : State) (x : Straps) : (s.withStraps x).ring = s.ring := rfl
@[simp] theorem State.withStraps_conditions (s : State) (x : Straps) : (s.withStraps x).conditions = s.conditions := rfl
@[simp] theorem State.withStraps_straps (s : State) (x : Straps) : (s.withStraps x).straps = x := rfl
@[simp] theorem State.withStraps_restart (s : State) (x : Straps) : (s.withStraps x).restart = s.restart := rfl
@[simp] theorem State.withStraps_pins (s : State) (x : Straps) : (s.withStraps x).pins = s.pins := rfl
@[simp] theorem State.withStraps_due (s : State) (x : Straps) : (s.withStraps x).due = s.due := rfl
@[simp] theorem State.withStraps_pending (s : State) (x : Straps) : (s.withStraps x).pending = s.pending := rfl
@[simp] theorem State.withStraps_withStraps (s : State) (x y : Straps) : (s.withStraps x).withStraps y = s.withStraps y := rfl
@[simp] theorem State.withStraps_self (s : State) : s.withStraps s.straps = s := rfl

/-! ### withRestart -/

@[simp] theorem State.withRestart_line (s : State) (x : RestartState) : (s.withRestart x).line = s.line := rfl
@[simp] theorem State.withRestart_presence (s : State) (x : RestartState) : (s.withRestart x).presence = s.presence := rfl
@[simp] theorem State.withRestart_clock (s : State) (x : RestartState) : (s.withRestart x).clock = s.clock := rfl
@[simp] theorem State.withRestart_engine (s : State) (x : RestartState) : (s.withRestart x).engine = s.engine := rfl
@[simp] theorem State.withRestart_port (s : State) (x : RestartState) : (s.withRestart x).port = s.port := rfl
@[simp] theorem State.withRestart_store (s : State) (x : RestartState) : (s.withRestart x).store = s.store := rfl
@[simp] theorem State.withRestart_assembler (s : State) (x : RestartState) : (s.withRestart x).assembler = s.assembler := rfl
@[simp] theorem State.withRestart_query (s : State) (x : RestartState) : (s.withRestart x).query = s.query := rfl
@[simp] theorem State.withRestart_ring (s : State) (x : RestartState) : (s.withRestart x).ring = s.ring := rfl
@[simp] theorem State.withRestart_conditions (s : State) (x : RestartState) : (s.withRestart x).conditions = s.conditions := rfl
@[simp] theorem State.withRestart_straps (s : State) (x : RestartState) : (s.withRestart x).straps = s.straps := rfl
@[simp] theorem State.withRestart_restart (s : State) (x : RestartState) : (s.withRestart x).restart = x := rfl
@[simp] theorem State.withRestart_pins (s : State) (x : RestartState) : (s.withRestart x).pins = s.pins := rfl
@[simp] theorem State.withRestart_due (s : State) (x : RestartState) : (s.withRestart x).due = s.due := rfl
@[simp] theorem State.withRestart_pending (s : State) (x : RestartState) : (s.withRestart x).pending = s.pending := rfl
@[simp] theorem State.withRestart_withRestart (s : State) (x y : RestartState) : (s.withRestart x).withRestart y = s.withRestart y := rfl
@[simp] theorem State.withRestart_self (s : State) : s.withRestart s.restart = s := rfl

/-! ### withPins -/

@[simp] theorem State.withPins_line (s : State) (x : Pins) : (s.withPins x).line = s.line := rfl
@[simp] theorem State.withPins_presence (s : State) (x : Pins) : (s.withPins x).presence = s.presence := rfl
@[simp] theorem State.withPins_clock (s : State) (x : Pins) : (s.withPins x).clock = s.clock := rfl
@[simp] theorem State.withPins_engine (s : State) (x : Pins) : (s.withPins x).engine = s.engine := rfl
@[simp] theorem State.withPins_port (s : State) (x : Pins) : (s.withPins x).port = s.port := rfl
@[simp] theorem State.withPins_store (s : State) (x : Pins) : (s.withPins x).store = s.store := rfl
@[simp] theorem State.withPins_assembler (s : State) (x : Pins) : (s.withPins x).assembler = s.assembler := rfl
@[simp] theorem State.withPins_query (s : State) (x : Pins) : (s.withPins x).query = s.query := rfl
@[simp] theorem State.withPins_ring (s : State) (x : Pins) : (s.withPins x).ring = s.ring := rfl
@[simp] theorem State.withPins_conditions (s : State) (x : Pins) : (s.withPins x).conditions = s.conditions := rfl
@[simp] theorem State.withPins_straps (s : State) (x : Pins) : (s.withPins x).straps = s.straps := rfl
@[simp] theorem State.withPins_restart (s : State) (x : Pins) : (s.withPins x).restart = s.restart := rfl
@[simp] theorem State.withPins_pins (s : State) (x : Pins) : (s.withPins x).pins = x := rfl
@[simp] theorem State.withPins_due (s : State) (x : Pins) : (s.withPins x).due = s.due := rfl
@[simp] theorem State.withPins_pending (s : State) (x : Pins) : (s.withPins x).pending = s.pending := rfl
@[simp] theorem State.withPins_withPins (s : State) (x y : Pins) : (s.withPins x).withPins y = s.withPins y := rfl
@[simp] theorem State.withPins_self (s : State) : s.withPins s.pins = s := rfl

/-! ### withDue -/

@[simp] theorem State.withDue_line (s : State) (x : Due) : (s.withDue x).line = s.line := rfl
@[simp] theorem State.withDue_presence (s : State) (x : Due) : (s.withDue x).presence = s.presence := rfl
@[simp] theorem State.withDue_clock (s : State) (x : Due) : (s.withDue x).clock = s.clock := rfl
@[simp] theorem State.withDue_engine (s : State) (x : Due) : (s.withDue x).engine = s.engine := rfl
@[simp] theorem State.withDue_port (s : State) (x : Due) : (s.withDue x).port = s.port := rfl
@[simp] theorem State.withDue_store (s : State) (x : Due) : (s.withDue x).store = s.store := rfl
@[simp] theorem State.withDue_assembler (s : State) (x : Due) : (s.withDue x).assembler = s.assembler := rfl
@[simp] theorem State.withDue_query (s : State) (x : Due) : (s.withDue x).query = s.query := rfl
@[simp] theorem State.withDue_ring (s : State) (x : Due) : (s.withDue x).ring = s.ring := rfl
@[simp] theorem State.withDue_conditions (s : State) (x : Due) : (s.withDue x).conditions = s.conditions := rfl
@[simp] theorem State.withDue_straps (s : State) (x : Due) : (s.withDue x).straps = s.straps := rfl
@[simp] theorem State.withDue_restart (s : State) (x : Due) : (s.withDue x).restart = s.restart := rfl
@[simp] theorem State.withDue_pins (s : State) (x : Due) : (s.withDue x).pins = s.pins := rfl
@[simp] theorem State.withDue_due (s : State) (x : Due) : (s.withDue x).due = x := rfl
@[simp] theorem State.withDue_pending (s : State) (x : Due) : (s.withDue x).pending = s.pending := rfl
@[simp] theorem State.withDue_withDue (s : State) (x y : Due) : (s.withDue x).withDue y = s.withDue y := rfl
@[simp] theorem State.withDue_self (s : State) : s.withDue s.due = s := rfl

/-! ### withPending -/

@[simp] theorem State.withPending_line (s : State) (x : List Instr) : (s.withPending x).line = s.line := rfl
@[simp] theorem State.withPending_presence (s : State) (x : List Instr) : (s.withPending x).presence = s.presence := rfl
@[simp] theorem State.withPending_clock (s : State) (x : List Instr) : (s.withPending x).clock = s.clock := rfl
@[simp] theorem State.withPending_engine (s : State) (x : List Instr) : (s.withPending x).engine = s.engine := rfl
@[simp] theorem State.withPending_port (s : State) (x : List Instr) : (s.withPending x).port = s.port := rfl
@[simp] theorem State.withPending_store (s : State) (x : List Instr) : (s.withPending x).store = s.store := rfl
@[simp] theorem State.withPending_assembler (s : State) (x : List Instr) : (s.withPending x).assembler = s.assembler := rfl
@[simp] theorem State.withPending_query (s : State) (x : List Instr) : (s.withPending x).query = s.query := rfl
@[simp] theorem State.withPending_ring (s : State) (x : List Instr) : (s.withPending x).ring = s.ring := rfl
@[simp] theorem State.withPending_conditions (s : State) (x : List Instr) : (s.withPending x).conditions = s.conditions := rfl
@[simp] theorem State.withPending_straps (s : State) (x : List Instr) : (s.withPending x).straps = s.straps := rfl
@[simp] theorem State.withPending_restart (s : State) (x : List Instr) : (s.withPending x).restart = s.restart := rfl
@[simp] theorem State.withPending_pins (s : State) (x : List Instr) : (s.withPending x).pins = s.pins := rfl
@[simp] theorem State.withPending_due (s : State) (x : List Instr) : (s.withPending x).due = s.due := rfl
@[simp] theorem State.withPending_pending (s : State) (x : List Instr) : (s.withPending x).pending = x := rfl
@[simp] theorem State.withPending_withPending (s : State) (x y : List Instr) : (s.withPending x).withPending y = s.withPending y := rfl
@[simp] theorem State.withPending_self (s : State) : s.withPending s.pending = s := rfl

end Sys2Proof.Machine
end

