-- ==== Sys2Proof/Laws/Ops.lean ====
section
/-! SUPPORT. One lemma for each shared operation of Machine/Ops.lean that says everything it can do. Later
proofs cite these and unfold no operation. -/

namespace Sys2Proof.Machine

/-! ## Reading and writing a place of the ring -/

/-- A place reads what was just written into it. -/
@[simp] theorem lookupPlace_insertPlace_same (k : Nat) (r : Record) (l : List (Nat × Record)) :
    lookupPlace k (insertPlace k r l) = some r := by
  induction l with
  | nil => simp [insertPlace, lookupPlace]
  | cons p rest ih =>
    simp only [insertPlace]
    split
    · simp [lookupPlace]
    · split
      · simp [lookupPlace]
      · simp [lookupPlace, *]

/-- A write leaves every other place as it was. -/
theorem lookupPlace_insertPlace_ne {k k' : Nat} (h : k' ≠ k) (r : Record) (l : List (Nat × Record)) :
    lookupPlace k' (insertPlace k r l) = lookupPlace k' l := by
  induction l with
  | nil => simp [insertPlace, lookupPlace, h]
  | cons p rest ih =>
    simp only [insertPlace]
    split
    · simp [lookupPlace, h]
    · split
      · next hk => simp [lookupPlace, ← hk, h]
      · simp only [lookupPlace, ih]

/-- The addresses after a write: the written one, or one that was listed. -/
theorem mem_insertPlace {k : Nat} {r : Record} {l : List (Nat × Record)} {p : Nat × Record}
    (h : p ∈ insertPlace k r l) : p = (k, r) ∨ p ∈ l := by
  induction l with
  | nil => simpa [insertPlace] using h
  | cons q rest ih =>
    simp only [insertPlace] at h
    split at h
    · simpa using h
    · split at h
      · simp only [List.mem_cons] at h ⊢; tauto
      · simp only [List.mem_cons] at h ⊢; rcases h with h | h
        · exact .inr (.inl h)
        · rcases ih h with h | h <;> tauto

/-- A write keeps the canonical form: addresses strictly rising. -/
theorem rising_insertPlace (k : Nat) (r : Record) (l : List (Nat × Record))
    (h : (l.map Prod.fst).Pairwise (· < ·)) : ((insertPlace k r l).map Prod.fst).Pairwise (· < ·) := by
  induction l with
  | nil => simp [insertPlace]
  | cons q rest ih =>
    simp only [List.map_cons, List.pairwise_cons, List.mem_map] at h
    simp only [insertPlace]
    split
    · next hk =>
      simp only [List.map_cons, List.pairwise_cons, List.mem_cons, List.mem_map]
      refine ⟨?_, h⟩
      rintro a (rfl | ⟨p, hp, rfl⟩)
      · exact hk
      · exact hk.trans (h.1 _ ⟨p, hp, rfl⟩)
    · split
      · next hk hk' =>
        simp only [List.map_cons, List.pairwise_cons, List.mem_map]
        exact ⟨hk' ▸ h.1, h.2⟩
      · next hk hk' =>
        simp only [List.map_cons, List.pairwise_cons, List.mem_map]
        refine ⟨?_, ih h.2⟩
        rintro a ⟨p, hp, rfl⟩
        rcases mem_insertPlace hp with rfl | hp
        · simp only; omega
        · exact h.1 _ ⟨p, hp, rfl⟩

/-! ## The ring's write -/

/-- The ring after a write (R139). -/
theorem ringWrite_ring (c : RecordContent) (s : State) :
    (ringWrite c s).ring =
      { s.ring with
        places := insertPlace (placeOf s.ring.producer) (s.recordOf c) s.ring.places
        producer := s.ring.producer + 1#16
        consumer := if s.ring.full then s.ring.consumer + 1#16 else s.ring.consumer
        written := if s.ring.written < ringPlaces then s.ring.written + 1 else s.ring.written
        lappedNow := if s.ring.full then s.ring.lappedNow ++ [s.ring.consumer] else s.ring.lappedNow } := rfl

/-- A write changes the ring and, if it laps, LAPPED; nothing else. -/
theorem ringWrite_spec (c : RecordContent) (s : State) :
    ringWrite c s =
      (s.withRing (ringWrite c s).ring).withConditions { s.conditions with lapped := s.conditions.lapped || s.ring.full } := rfl

@[simp] theorem ringWrite_line (c : RecordContent) (s : State) : (ringWrite c s).line = s.line := rfl
@[simp] theorem ringWrite_presence (c : RecordContent) (s : State) : (ringWrite c s).presence = s.presence := rfl
@[simp] theorem ringWrite_clock (c : RecordContent) (s : State) : (ringWrite c s).clock = s.clock := rfl
@[simp] theorem ringWrite_engine (c : RecordContent) (s : State) : (ringWrite c s).engine = s.engine := rfl
@[simp] theorem ringWrite_port (c : RecordContent) (s : State) : (ringWrite c s).port = s.port := rfl
@[simp] theorem ringWrite_store (c : RecordContent) (s : State) : (ringWrite c s).store = s.store := rfl
@[simp] theorem ringWrite_assembler (c : RecordContent) (s : State) : (ringWrite c s).assembler = s.assembler := rfl
@[simp] theorem ringWrite_query (c : RecordContent) (s : State) : (ringWrite c s).query = s.query := rfl
@[simp] theorem ringWrite_straps (c : RecordContent) (s : State) : (ringWrite c s).straps = s.straps := rfl
@[simp] theorem ringWrite_restart (c : RecordContent) (s : State) : (ringWrite c s).restart = s.restart := rfl
@[simp] theorem ringWrite_pins (c : RecordContent) (s : State) : (ringWrite c s).pins = s.pins := rfl
@[simp] theorem ringWrite_due (c : RecordContent) (s : State) : (ringWrite c s).due = s.due := rfl
@[simp] theorem ringWrite_pending (c : RecordContent) (s : State) : (ringWrite c s).pending = s.pending := rfl

/-- A note is a write of the ring with the present hut time. -/
theorem writeNote_spec (v : NoteValue) (s : State) : writeNote v s = ringWrite (.note s.clock.time v) s := rfl

/-! ## Offers -/

theorem offerMark_spec (q : BitVec 8) (s : State) :
    (s.accepts = true ∧ offerMark q s =
      s.withLine { s.line with markSlot := some q, activity := s.line.activity.replacedAt .mark }) ∨
    (s.accepts = false ∧ offerMark q s = s) := by
  unfold offerMark; split <;> simp_all

theorem offerFlag_spec (w : WireSet) (s : State) :
    (s.accepts = true ∧ offerFlag w s =
      s.withLine { s.line with flagSlot := some w, activity := s.line.activity.replacedAt .flag }) ∨
    (s.accepts = false ∧ offerFlag w s = s) := by
  unfold offerFlag; split <;> simp_all

theorem offerTemp_spec (t : TempPacket) (s : State) :
    (s.accepts = true ∧ offerTemp t s =
      s.withLine { s.line with tempSlot := some t, activity := s.line.activity.replacedAt .temp }) ∨
    (s.accepts = false ∧ offerTemp t s = s) := by
  unfold offerTemp; split <;> simp_all

theorem offerRoll_spec (r : RollSummary) (s : State) :
    (s.accepts = true ∧ offerRoll r s =
      s.withLine { s.line with rollSlot := some r, activity := s.line.activity.replacedAt .roll }) ∨
    (s.accepts = false ∧ offerRoll r s = s) := by
  unfold offerRoll; split <;> simp_all

theorem offerReply_spec (r : Reply) (s : State) :
    ((s.accepts = true ∧ s.line.replyQueue.length < replyCapacity) ∧
      offerReply r s = s.withLine { s.line with replyQueue := s.line.replyQueue ++ [r] }) ∨
    (¬ (s.accepts = true ∧ s.line.replyQueue.length < replyCapacity) ∧ offerReply r s = s) := by
  unfold offerReply; split
  · next h => exact .inl ⟨h, rfl⟩
  · next h => exact .inr ⟨h, rfl⟩

theorem offerAsk_spec (a : OwnAsk) (s : State) :
    ((s.accepts = true ∧ s.line.askQueue.length < askCapacity) ∧
      offerAsk a s = s.withLine { s.line with askQueue := s.line.askQueue ++ [a] }) ∨
    (¬ (s.accepts = true ∧ s.line.askQueue.length < askCapacity) ∧ offerAsk a s = s) := by
  unfold offerAsk; split
  · next h => exact .inl ⟨h, rfl⟩
  · next h => exact .inr ⟨h, rfl⟩

theorem offerObs_spec (p : ObsPacket) (s : State) :
    (s.accepts = true ∧ offerObs p s =
      s.withLine { s.line with obsQueue := obsRoom (s.line.activity.inFlight .obs) s.line.obsQueue ++ [p] }) ∨
    (s.accepts = false ∧ offerObs p s = s) := by
  unfold offerObs; split <;> simp_all

/-! ## Wires and peers -/

theorem setOwn_spec (w : WireSet) (s : State) :
    (w = s.presence.own ∧ setOwn w s = s) ∨
    (w ≠ s.presence.own ∧
      setOwn w s = offerFlag w (s.withPresence { s.presence with own := w }.recomputed)) := by
  unfold setOwn; split
  · next h => exact .inl ⟨h, rfl⟩
  · next h => exact .inr ⟨h, rfl⟩

theorem heard_spec (src : Station) (s : State) :
    (namesPeer src = true ∧ heard src s =
      s.withPresence
        (s.presence.modifyPeer src fun e => { e with presence := .present, lastHeard := some s.clock.time })) ∨
    (namesPeer src = false ∧ heard src s = s) := by
  unfold heard; split <;> simp_all

theorem setPeerWires_spec (src : Station) (w : WireSet) (s : State) :
    (namesPeer src = true ∧ ∃ p, setPeerWires src w s = s.withPresence p ∧
      p.peers = (s.presence.modifyPeer src fun e => { e with wires := w }).peers ∧ p.own = s.presence.own ∧
      (p.wireOr = p.orNow ∨ ((s.presence.peer src).wires = w ∧ p.wireOr = s.presence.wireOr))) ∨
    (namesPeer src = false ∧ setPeerWires src w s = s) := by
  unfold setPeerWires
  split
  · next h =>
    refine .inl ⟨h, _, rfl, ?_⟩
    split
    · next hw =>
      refine ⟨rfl, ?_, .inr ⟨hw, ?_⟩⟩ <;> · unfold PresenceBlock.modifyPeer; split <;> rfl
    · refine ⟨rfl, ?_, .inl rfl⟩
      unfold PresenceBlock.recomputed PresenceBlock.modifyPeer; split <;> rfl
  · next h => exact .inr ⟨by simpa using h, rfl⟩

/-! ## Queries -/

/-- Removing ASKs leaves one in flight at the head, and takes the named ones of the rest. -/
theorem removeAsks_spec (gone : OwnAsk → Bool) (s : State) :
    ∃ asks, removeAsks gone s = s.withLine { s.line with askQueue := asks } ∧
      (s.line.activity.inFlight .ask = false → asks = s.line.askQueue.filter fun a => !gone a) ∧
      (s.line.activity.inFlight .ask = true →
        asks = s.line.askQueue.take 1 ++ (s.line.askQueue.drop 1).filter fun a => !gone a) := by
  refine ⟨_, rfl, ?_, ?_⟩ <;> intro h <;> cases s.line.askQueue <;> simp [h]

/-- Retiring changes the pending query table and the ASK queue, nothing else. -/
theorem retireQueries_spec (gone : PendingQuery → Bool) (s : State) :
    ∃ asks, retireQueries gone s =
      (s.withQuery { s.query with queries := s.query.queries.filter fun q => !gone q }).withLine
        { s.line with askQueue := asks } ∧ asks.length ≤ s.line.askQueue.length := by
  obtain ⟨asks, h, h1, h2⟩ := removeAsks_spec
    (fun a => s.query.queries.any fun q => gone q && decide (q.target = a.target ∧ q.tag = a.tag))
    (s.withQuery { s.query with queries := s.query.queries.filter fun q => !gone q })
  refine ⟨asks, h, ?_⟩
  cases hf : s.line.activity.inFlight .ask
  · rw [h1 hf]; exact List.length_filter_le _ _
  · rw [h2 hf, List.length_append, List.length_take]
    have := List.length_filter_le (fun a => !(s.query.queries.any fun q => gone q && decide (q.target = a.target ∧ q.tag = a.tag)))
      ((s.withQuery { s.query with queries := s.query.queries.filter fun q => !gone q }).line.askQueue.drop 1)
    rw [List.length_drop] at this
    simp only [State.withQuery_line] at *
    omega

/-! ## Standing -/

/-- An evaluation of the standing leaves the state, or enters the standing that Figure 1-7 gives. -/
theorem settleStanding_spec (joined : Bool) (s : State) :
    (nextStanding joined s.line.score s.line.standing = s.line.standing ∧ settleStanding joined s = s) ∨
    (nextStanding joined s.line.score s.line.standing ≠ s.line.standing ∧
      settleStanding joined s = enterStanding (nextStanding joined s.line.score s.line.standing) s) := by
  unfold settleStanding; split
  · next h => exact .inl ⟨h, rfl⟩
  · next h => exact .inr ⟨h, rfl⟩

/-- Entering a standing changes the line, the pending queries and, by its note, the ring. -/
theorem enterStanding_spec (st : Standing) (s : State) :
    ∃ l q, enterStanding st s = writeNote (.standing st s.line.score) ((s.withLine l).withQuery q) ∧
      l.standing = st ∧ l.score = s.line.score ∧ l.activity = s.line.activity ∧ l.cycle = s.line.cycle ∧
      (st = .withdrawn → l = { s.line.emptied with standing := .withdrawn } ∧ q = { s.query with queries := [] }) ∧
      (st ≠ .withdrawn → l = { s.line with standing := st, joinCount := l.joinCount } ∧ q = s.query) := by
  by_cases h : st = .withdrawn
  · subst h
    exact ⟨{ s.line.emptied with standing := .withdrawn }, { s.query with queries := [] }, rfl, rfl, rfl, rfl, rfl,
      fun _ => ⟨rfl, rfl⟩, fun h => absurd rfl h⟩
  · refine ⟨{ s.line with standing := st, joinCount := if st = .joining then 0 else s.line.joinCount }, s.query,
      ?_, rfl, rfl, rfl, rfl, fun h' => absurd h' h, fun _ => ⟨rfl, rfl⟩⟩
    unfold enterStanding
    simp only [if_neg h]
    rfl

/-! ## Reception -/

/-- The line after a packet: the own packet in flight stays in flight, else the line is not idle. -/
theorem afterPacket_spec (l : LineInterface) :
    ((∃ sd, l.activity = .sending sd) ∧ l.afterPacket = l) ∨
    ((∀ sd, l.activity ≠ .sending sd) ∧ l.afterPacket = { l with activity := .waiting, quiet := 0, joinCount := 0 }) := by
  unfold LineInterface.afterPacket LineInterface.disturbed
  cases l.activity <;> simp

/-- A packet is taken on an idle line or while one is being received. -/
theorem takesPackets_iff (s : State) :
    s.takesPackets = true ↔ s.running = true ∧ (s.line.activity = .idle ∨ ∃ c, s.line.activity = .receiving c) := by
  unfold State.takesPackets
  cases s.line.activity <;> simp

/-- An ASK is handed over where a packet is taken, or another station's while the node sends or at the moment
its send has ended. -/
theorem takesAsk_iff (src : Station) (s : State) :
    s.takesAsk src = true ↔
      s.takesPackets = true ∨ (s.running = true ∧ src ≠ s.straps.station ∧
        ((∃ sd, s.line.activity = .sending sd) ∨ (s.line.activity = .waiting ∧ s.line.sendEnded = true))) := by
  unfold State.takesAsk
  cases s.line.activity <;> simp [and_assoc]

/-- A packet handed over: the node's own number, or heard, owned and scored. -/
theorem handOver_spec (src : Station) (owner : Option HutTime → State → State) (s : State) :
    (src = s.straps.station ∧ handOver src owner s = takeOwnNumber (endReception s)) ∨
    (src ≠ s.straps.station ∧
      handOver src owner s = lowerScore true (owner s.receiveCapture (heard src (endReception s)))) := by
  unfold handOver
  split
  · next h => exact .inl ⟨h, rfl⟩
  · next h => exact .inr ⟨h, rfl⟩

/-- A received packet: not taken, or handed over. -/
theorem receivePacket_spec (src : Station) (owner : Option HutTime → State → State) (s : State) :
    (s.takesPackets = false ∧ receivePacket src owner s = s) ∨
    (s.takesPackets = true ∧ receivePacket src owner s = handOver src owner s) := by
  unfold receivePacket; split <;> simp_all

/-- A received packet of class ASK: not taken, or handed over. -/
theorem receiveAskPacket_spec (src : Station) (owner : Option HutTime → State → State) (s : State) :
    (s.takesAsk src = false ∧ receiveAskPacket src owner s = s) ∨
    (s.takesAsk src = true ∧ receiveAskPacket src owner s = handOver src owner s) := by
  unfold receiveAskPacket; split <;> simp_all

/-- A received ASK: what `receiveAskPacket` does, with the question dropped, answered RANGE, or carried out. -/
theorem receiveAsk_spec (a : Ask) (code : Byte) (ok : Bool) (carry : State → State) (s : State) :
    ∃ owner : Option HutTime → State → State, receiveAsk a code ok carry s = receiveAskPacket a.source owner s ∧
      ∀ c t, (askAccepted a code t = false ∧ owner c t = t) ∨
        (askAccepted a code t = true ∧ ok = false ∧ owner c t = offerReply (replyTo a code .range .empty) t) ∨
        (askAccepted a code t = true ∧ ok = true ∧ owner c t = carry t) := by
  refine ⟨_, rfl, fun c t => ?_⟩
  cases askAccepted a code t <;> cases ok <;> simp

/-- What hut time reaches changes the due events and nothing else. -/
theorem reach_spec (t : HutTime) (byStep : Bool) (s : State) :
    ∃ d, reach t byStep s = s.withDue d ∧ (s.held = true → d = s.due) := by
  unfold reach
  split
  · exact ⟨s.due, rfl, fun _ => rfl⟩
  · next h =>
    split
    · exact ⟨_, rfl, fun h' => absurd h' h⟩
    · split
      · exact ⟨_, rfl, fun h' => absurd h' h⟩
      · exact ⟨s.due, rfl, fun _ => rfl⟩

end Sys2Proof.Machine
end

