-- ==== Sys2Proof/Laws/Assembly.lean ====
section
/-! SUPPORT. What the release of the assembly queue can do (R108), in one lemma, and the closes that lead to it. -/

namespace Sys2Proof.Machine

/-! ## The storm detector -/

/-- Two states that the storm detector cannot tell apart: they differ at most in the OBS queue and in what it
neither reads nor writes. -/
def SameStorm (s t : State) : Prop :=
  t.presence = s.presence ∧ t.assembler.storm = s.assembler.storm ∧
    t.line = { s.line with obsQueue := t.line.obsQueue } ∧ t.store.active = s.store.active ∧ t.straps = s.straps

/-- The storm detector writes its own state, the presence block and the line's FLAG slot and activity. -/
theorem stormRecord_frame (slots : List (Option Int)) (s : State) :
    stormRecord slots s =
      ((s.withPresence (stormRecord slots s).presence).withLine
        { s.line with
          flagSlot := (stormRecord slots s).line.flagSlot, activity := (stormRecord slots s).line.activity }).withAssembler
        { s.assembler with storm := (stormRecord slots s).assembler.storm } := by
  unfold stormRecord
  split
  · rfl
  · dsimp only
    split
    · rfl
    · split
      · rfl
      · unfold handStorm
        split
        · unfold setOwnStorm setOwn offerFlag
          split
          · rfl
          · split <;> rfl
        · rfl

/-- An OBS packet in flight stays one: the storm detector marks at most the FLAG slot's packet. -/
theorem stormRecord_inFlight (slots : List (Option Int)) (s : State) :
    (stormRecord slots s).line.activity.inFlight .obs = s.line.activity.inFlight .obs := by
  unfold stormRecord
  split
  · rfl
  · dsimp only
    split
    · rfl
    · split
      · rfl
      · unfold handStorm
        split
        · unfold setOwnStorm setOwn offerFlag
          split
          · rfl
          · split
            · simp only [State.withLine_line, State.withPresence_line, State.withAssembler_line]
              cases s.line.activity <;> try rfl
              simp only [LineActivity.replacedAt]
              split <;> rfl
            · rfl
        · rfl

/-- An own STORM change looks at the presence block and the line's standing, activity and FLAG slot. -/
theorem SameStorm.setOwnStorm (b : Bool) {s t : State} (h : SameStorm s t) :
    SameStorm (setOwnStorm b s) (setOwnStorm b t) := by
  obtain ⟨hp, hd, hl, ha, hs⟩ := h
  have hacc : t.accepts = s.accepts := by unfold State.accepts; rw [hl]
  unfold Machine.setOwnStorm setOwn
  rw [hp]
  by_cases hown : ({ s.presence.own with storm := b } : WireSet) = s.presence.own
  · simp only [hown, if_true]
    exact ⟨hp, hd, hl, ha, hs⟩
  · simp only [hown, if_false]
    have e1 : ∀ x : PresenceBlock, (t.withPresence x).accepts = s.accepts := fun _ => hacc
    have e2 : ∀ x : PresenceBlock, (s.withPresence x).accepts = s.accepts := fun _ => rfl
    unfold offerFlag
    rw [e1, e2]
    cases s.accepts
    · exact ⟨rfl, hd, hl, ha, hs⟩
    · refine ⟨rfl, hd, ?_, ha, hs⟩
      simp only [if_true, State.withLine_line, State.withPresence_line]
      rw [hl]

/-- What the storm detector does depends on nothing that `SameStorm` leaves open. -/
theorem SameStorm.stormRecord (slots : List (Option Int)) {s t : State} (h : SameStorm s t) :
    SameStorm (stormRecord slots s) (stormRecord slots t) := by
  have h0 := h
  obtain ⟨hp, hd, hl, ha, hs⟩ := h
  unfold Machine.stormRecord
  rw [hs]
  split
  · exact h0
  · dsimp only
    rw [hd, ha]
    split
    · exact ⟨hp, rfl, hl, ha, hs⟩
    · split
      · exact ⟨hp, rfl, hl, ha, hs⟩
      · generalize judge _ _ _ = out
        rcases out with ⟨d, _ | b⟩
        · exact ⟨hp, rfl, hl, ha, hs⟩
        · exact SameStorm.setOwnStorm b ⟨hp, rfl, hl, ha, hs⟩

/-- The detector's work over a list of records, likewise. -/
theorem SameStorm.foldl (l : List (Entry × Closed)) : ∀ {s t : State}, SameStorm s t →
    SameStorm (l.foldl (fun u p => Machine.stormRecord p.2.slots u) s)
      (l.foldl (fun u p => Machine.stormRecord p.2.slots u) t) := by
  induction l with
  | nil => exact fun h => h
  | cons p rest ih => exact fun h => ih (h.stormRecord p.2.slots)

/-- Over a list of records the detector's frame is that of one record. -/
theorem stormFold_frame (l : List (Entry × Closed)) : ∀ s : State, ∃ a f,
    (l.foldl (fun u p => stormRecord p.2.slots u) s).line = { s.line with activity := a, flagSlot := f } := by
  induction l with
  | nil => exact fun s => ⟨_, _, rfl⟩
  | cons p rest ih =>
    intro s
    obtain ⟨a, f, h⟩ := ih (stormRecord p.2.slots s)
    refine ⟨a, f, h.trans ?_⟩
    rw [stormRecord_frame p.2.slots s]; rfl

/-! ## The ring's writes -/

/-- The ring and the conditions after writes depend on straps, ring and conditions alone. -/
theorem writeFold_congr (l : List (Entry × Closed)) : ∀ {s t : State}, t.straps = s.straps → t.ring = s.ring →
    t.conditions = s.conditions →
    (l.foldl (fun u p => ringWrite (contentOf p.1 p.2) u) t).ring = (l.foldl (fun u p => ringWrite (contentOf p.1 p.2) u) s).ring ∧
    (l.foldl (fun u p => ringWrite (contentOf p.1 p.2) u) t).conditions
      = (l.foldl (fun u p => ringWrite (contentOf p.1 p.2) u) s).conditions := by
  induction l with
  | nil => exact fun _ h2 h3 => ⟨h2, h3⟩
  | cons p rest ih =>
    intro s t h1 h2 h3
    refine ih h1 ?_ ?_
    · show (ringWrite (contentOf p.1 p.2) t).ring = (ringWrite (contentOf p.1 p.2) s).ring
      simp only [ringWrite_ring, State.recordOf, h1, h2]
    · show ({ t.conditions with lapped := t.conditions.lapped || t.ring.full } : Conditions)
        = { s.conditions with lapped := s.conditions.lapped || s.ring.full }
      rw [h2, h3]

/-! ## The release of one entry -/

/-- The queue of an OBS offer in any standing. -/
def obsAfter (accepts busy : Bool) (q : List ObsPacket) (x : Option Record) : List ObsPacket :=
  match x with
  | some r => if accepts then obsRoom busy q ++ [.record r] else q
  | none => q

/-- The storm detector at the release of one entry. -/
def stormAt (e : Entry) (c : Closed) (s : State) : State := if e.kind = .base then stormRecord c.slots s else s

/-- It agrees on states that differ in the assembly queue, and leaves standing, active set, straps and an OBS packet
in flight. -/
theorem stormAt_frame (e : Entry) (c : Closed) (s : State) (a : Assembler) (ha : a.storm = s.assembler.storm) :
    SameStorm (stormAt e c s) (stormAt e c (s.withAssembler a)) ∧
      ((stormAt e c (s.withAssembler a)).line.standing = s.line.standing ∧
        (stormAt e c (s.withAssembler a)).store.active = s.store.active ∧
        (stormAt e c (s.withAssembler a)).straps = s.straps) ∧
      (stormAt e c (s.withAssembler a)).line.activity.inFlight .obs = s.line.activity.inFlight .obs := by
  have h0 : SameStorm s (s.withAssembler a) := ⟨rfl, ha, rfl, rfl, rfl⟩
  unfold stormAt
  split
  · refine ⟨h0.stormRecord c.slots, ?_, stormRecord_inFlight c.slots _⟩
    rw [stormRecord_frame]; exact ⟨rfl, rfl, rfl⟩
  · exact ⟨h0, ⟨rfl, rfl, rfl⟩, rfl⟩

/-- The release of one entry: the ring's write, the storm detector's judgment of a base record, its offer as an
OBS, and the outgoing set. -/
theorem releaseOne_spec (e : Entry) (c : Closed) (rest : List Entry) (s : State)
    (hr : s.straps.role = .vector ∨ s.straps.role = .scalar) :
    releaseOne e c rest s =
      (((((s.withRing (ringWrite (contentOf e c) s).ring).withConditions (ringWrite (contentOf e c) s).conditions).withPresence
        (stormAt e c s).presence).withLine
          { (stormAt e c s).line with
            obsQueue := obsAfter s.accepts (s.line.activity.inFlight .obs) s.line.obsQueue
              (if e.kind = .base then some (recordUnder s s.ring.producer e c) else none) }).withAssembler
            { s.assembler with queue := rest, storm := (stormAt e c s).assembler.storm }).withStore
              { s.store with outgoing := outgoingAfter [(e, c)] rest s.store.outgoing } := by
  have hdrop : ∀ t : State, t.store = s.store →
      dropOutgoing e.edition rest t = t.withStore { s.store with outgoing := outgoingAfter [(e, c)] rest s.store.outgoing } := by
    intro t ht
    unfold dropOutgoing outgoingAfter
    rw [ht]
    have hs : t = t.withStore s.store := by rw [← ht]; rfl
    cases ho : s.store.outgoing with
    | none =>
      have hn : ({ s.store with outgoing := none } : CorrectionStore) = s.store := by rw [← ho]
      simp only [Option.filter_none, hn]
      exact hs
    | some o =>
      by_cases h : e.edition = o.edition ∧ (rest.all fun x => decide (x.edition ≠ o.edition)) = true
      · simp only [h, and_self, if_true]
        congr 1
        rw [Option.filter_some, if_neg]
        simp only [List.any_cons, h.1, decide_true, Bool.true_or, Bool.true_and, h.2, Bool.not_true, Bool.false_eq_true, not_false_eq_true]
      · simp only [h, if_false]
        rw [hs]
        congr 1
        have : (!(([(e, c)].any fun p => decide (p.1.edition = o.edition)) && rest.all fun x => decide (x.edition ≠ o.edition))) = true := by
          simp only [List.any_cons, List.any_nil, Bool.or_false, Bool.not_eq_true', Bool.and_eq_false_iff, decide_eq_false_iff_not]
          by_contra hn
          push Not at hn
          exact h ⟨hn.1, by simpa using hn.2⟩
        rw [Option.filter_some, if_pos this, ← ho]
  unfold releaseOne
  by_cases hk : e.kind = .base
  · set w := ringWrite (recordContent e c) (s.withAssembler { s.assembler with queue := rest }) with hw
    have hsame : SameStorm s w := ⟨rfl, rfl, rfl, rfl, rfl⟩
    obtain ⟨k1, k2, k3, -, -⟩ := hsame.stormRecord c.slots
    have hafter : afterBase c (s.recordOf (recordContent e c)) w =
        offerObs (.record (s.recordOf (recordContent e c))) (stormRecord c.slots w) := by
      unfold afterBase
      have hwr : w.straps.role = s.straps.role := rfl
      rcases hr with hr | hr <;> simp [hwr, hr]
    have hfs := stormRecord_frame c.slots s
    have hf := stormRecord_frame c.slots w
    have hq : (stormRecord c.slots w).line.obsQueue = s.line.obsQueue := by rw [hf]; rfl
    have hact : (stormRecord c.slots w).line.activity = (stormRecord c.slots s).line.activity := by rw [k3]
    have hacc : (stormRecord c.slots w).accepts = s.accepts := by unfold State.accepts; rw [hf]; rfl
    have hstore : ∀ x, (offerObs x (stormRecord c.slots w)).store = s.store := by
      intro x
      rcases offerObs_spec x (stormRecord c.slots w) with ⟨-, ho⟩ | ⟨-, ho⟩ <;> rw [ho, hf] <;> rfl
    simp only [hk, if_true]
    rw [hafter, hdrop _ (hstore _)]
    congr 1
    simp only [stormAt, hk, if_true, obsAfter]
    rcases offerObs_spec (.record (s.recordOf (recordContent e c))) (stormRecord c.slots w) with ⟨ha, ho⟩ | ⟨ha, ho⟩
    · rw [hacc] at ha
      rw [ho, ha, hq, hact, stormRecord_inFlight, if_pos rfl, ← k1, ← k2, k3]
      conv_lhs => rw [hf]
      rfl
    · rw [hacc] at ha
      rw [ho, ha, ← k1, ← k2]
      have hl : ({ (stormRecord c.slots s).line with obsQueue := s.line.obsQueue } : LineInterface) =
          (stormRecord c.slots w).line := by rw [k3, hq]
      simp only [Bool.false_eq_true, if_false]
      rw [hl]
      conv_lhs => rw [hf]
      conv_rhs => rw [hf]
      rfl
  · simp only [hk, if_false, stormAt, obsAfter]
    exact hdrop _ rfl

/-! ## The release of the queue -/

theorem releasable_cons_open {e : Entry} (h : e.closed = none) (rest : List Entry) : releasable (e :: rest) = [] := by
  simp [releasable, h]

theorem releasable_cons_closed {e : Entry} {c : Closed} (h : e.closed = some c) (rest : List Entry) :
    releasable (e :: rest) = (e, c) :: releasable rest := by
  simp [releasable, h]

theorem releasable_length_le (q : List Entry) : (releasable q).length ≤ q.length :=
  (List.length_filterMap_le _ _).trans (List.takeWhile_prefix _).length_le

/-- The entries of a queue are those released and those left. -/
theorem mem_iff_released_or_left (q : List Entry) (e : Entry) :
    e ∈ q ↔ (∃ c, (e, c) ∈ releasable q) ∨ e ∈ q.dropWhile fun x => x.closed.isSome := by
  induction q with
  | nil => simp [releasable]
  | cons x rest ih =>
    cases hc : x.closed with
    | none => simp [releasable_cons_open hc, hc]
    | some c =>
      rw [releasable_cons_closed hc, List.dropWhile_cons_of_pos (by simp [hc]), List.mem_cons, ih]
      simp only [List.mem_cons, Prod.mk.injEq]
      constructor
      · rintro (rfl | ⟨k, hk⟩ | h)
        · exact .inl ⟨c, .inl ⟨rfl, rfl⟩⟩
        · exact .inl ⟨k, .inr hk⟩
        · exact .inr h
      · rintro (⟨k, ⟨rfl, -⟩ | hk⟩ | h)
        · exact .inl rfl
        · exact .inr (.inl ⟨k, hk⟩)
        · exact .inr (.inr h)

/-- The outgoing set after the release of a head and then of the rest. -/
theorem outgoingAfter_cons (e : Entry) (c : Closed) (q : List Entry) (o : Option OutgoingSet) :
    outgoingAfter (releasable q) (q.dropWhile fun x => x.closed.isSome) (outgoingAfter [(e, c)] q o) =
      outgoingAfter ((e, c) :: releasable q) (q.dropWhile fun x => x.closed.isSome) o := by
  unfold outgoingAfter
  rw [Option.filter_filter]
  congr 1
  funext x
  have hq : (q.all fun y => decide (y.edition ≠ x.edition)) =
      (!(releasable q).any (fun p => decide (p.1.edition = x.edition)) &&
        (q.dropWhile fun y => y.closed.isSome).all fun y => decide (y.edition ≠ x.edition)) := by
    rw [Bool.eq_iff_iff]
    simp only [List.all_eq_true, Bool.and_eq_true, Bool.not_eq_true', List.any_eq_false, decide_eq_true_eq, Prod.forall]
    constructor
    · exact fun h => ⟨fun y k hy => h y ((mem_iff_released_or_left q y).2 (.inl ⟨k, hy⟩)),
        fun y hy => h y ((mem_iff_released_or_left q y).2 (.inr hy))⟩
    · rintro ⟨h1, h2⟩ y hy
      rcases (mem_iff_released_or_left q y).1 hy with ⟨k, hk⟩ | hk
      · exact h1 y k hk
      · exact h2 y hk
  rw [hq]
  simp only [List.any_cons, List.any_nil, Bool.or_false]
  cases decide (e.edition = x.edition) <;> cases (releasable q).any _ <;> cases (List.dropWhile _ q).all _ <;> rfl

/-- A queue whose head is open, or an empty one, releases nothing. -/
theorem releases_nothing (q : List Entry) (s : State) (h1 : releasable q = [])
    (h2 : q.dropWhile (fun e => e.closed.isSome) = q) : Releases q s (s.withAssembler { s.assembler with queue := q }) := by
  have hout : ∀ o, outgoingAfter [] q o = o := by intro o; cases o <;> rfl
  unfold Releases
  rw [h1, h2]
  refine ⟨?_, ?_, ?_, fun _ _ => rfl, rfl⟩
  · simp only [hout, List.foldl_nil, List.filter_nil, List.zipIdx_nil, List.map_nil, ite_self, State.withRing_self,
      State.withConditions_self, State.withPresence_self]
    rfl
  · show s.ring.producer = s.ring.producer + 0#16; simp
  · intro i e k h; simp at h

/-- The OBS queue after a head and the rest have been offered. -/
theorem obsFold_cons (e : Entry) (c : Closed) (out : List (Entry × Closed)) (accepts busy : Bool) (P : BitVec 16) (s : State)
    (q : List ObsPacket) :
    (if accepts then
      ((((e, c) :: out).zipIdx.filter fun p => decide (p.1.1.kind = .base)).map fun p =>
        recordUnder s (P + BitVec.ofNat 16 p.2) p.1.1 p.1.2).foldl (fun l x => obsRoom busy l ++ [.record x]) q
     else q) =
    (if accepts then
      ((out.zipIdx.filter fun p => decide (p.1.1.kind = .base)).map fun p =>
        recordUnder s (P + 1#16 + BitVec.ofNat 16 p.2) p.1.1 p.1.2).foldl (fun l x => obsRoom busy l ++ [.record x])
          (obsAfter accepts busy q (if e.kind = .base then some (recordUnder s P e c) else none))
     else obsAfter accepts busy q (if e.kind = .base then some (recordUnder s P e c) else none)) := by
  have hzip : ((e, c) :: out).zipIdx = ((e, c), 0) :: out.zipIdx.map (Prod.map id (· + 1)) := List.zipIdx_cons' ..
  have hrest : ((out.zipIdx.map (Prod.map id (· + 1))).filter fun p => decide (p.1.1.kind = .base)).map
      (fun p => recordUnder s (P + BitVec.ofNat 16 p.2) p.1.1 p.1.2) =
      (out.zipIdx.filter fun p => decide (p.1.1.kind = .base)).map fun p =>
        recordUnder s (P + 1#16 + BitVec.ofNat 16 p.2) p.1.1 p.1.2 := by
    rw [List.filter_map, List.map_map]
    congr 1
    funext p
    simp only [Function.comp, Prod.map, id]
    rw [BitVec.add_assoc, ← BitVec.ofNat_add, Nat.add_comm 1]
  rw [hzip, List.filter_cons]
  cases accepts
  · by_cases hk : e.kind = .base <;> simp [obsAfter, hk]
  · by_cases hk : e.kind = .base
    · simp only [hk, decide_true, if_true, List.map_cons, List.foldl_cons, obsAfter, hrest, BitVec.add_zero]
    · simp only [hk, decide_false, Bool.false_eq_true, if_false, if_true, obsAfter, hrest]

/-- The release of a head and then of the rest. `u` is the state between the two. -/
theorem releases_cons {e : Entry} {c : Closed} {rest : List Entry} {s u t : State} {r : Ring} {k : Conditions}
    {p : PresenceBlock} {l : LineInterface} {d : StormDetector} (hc : e.closed = some c) (hlen : rest.length ≤ 3)
    (hu : u = (((((s.withRing r).withConditions k).withPresence p).withLine l).withAssembler
      { s.assembler with queue := rest, storm := d }).withStore
        { s.store with outgoing := outgoingAfter [(e, c)] rest s.store.outgoing })
    (hring : r = (ringWrite (contentOf e c) s).ring) (hcond : k = (ringWrite (contentOf e c) s).conditions)
    (hst : SameStorm (stormAt e c s) u) (hacc : u.accepts = s.accepts)
    (hinf : l.activity.inFlight .obs = s.line.activity.inFlight .obs)
    (hobs : l.obsQueue = obsAfter s.accepts (s.line.activity.inFlight .obs) s.line.obsQueue
      (if e.kind = .base then some (recordUnder s s.ring.producer e c) else none))
    (ih : Releases rest u t) : Releases (e :: rest) s t := by
  have hus : u.straps = s.straps := by rw [hu]; rfl
  have hur : u.ring = r := by rw [hu]; rfl
  have huk : u.conditions = (ringWrite (contentOf e c) s).conditions := by rw [hu, ← hcond]; rfl
  have hul : u.line = l := by rw [hu]; rfl
  have huo : u.store.outgoing = outgoingAfter [(e, c)] rest s.store.outgoing := by rw [hu]; rfl
  have hP : u.ring.producer = s.ring.producer + 1#16 := by rw [hur, hring]; rfl
  have hrec : u.ring.recordAt s.ring.producer = some (recordUnder s s.ring.producer e c) := by
    rw [hur, hring, ringWrite_ring]
    unfold Ring.recordAt
    exact lookupPlace_insertPlace_same _ _ _
  have hoth : ∀ x : BitVec 16, x.toNat % 1024 ≠ s.ring.producer.toNat % 1024 → u.ring.recordAt x = s.ring.recordAt x := by
    intro x hx
    rw [hur, hring, ringWrite_ring]
    unfold Ring.recordAt
    exact lookupPlace_insertPlace_ne hx _ _
  have hnat : ∀ i : Nat, s.ring.producer + 1#16 + BitVec.ofNat 16 i = s.ring.producer + BitVec.ofNat 16 (i + 1) := by
    intro i
    rw [BitVec.add_assoc, ← BitVec.ofNat_add, Nat.add_comm]
  have hunder : ∀ x e k, recordUnder u x e k = recordUnder s x e k := by
    intro x e k; unfold recordUnder; rw [hus]
  have houtlen : (releasable rest).length ≤ 3 := (releasable_length_le rest).trans hlen
  have hdw : (e :: rest).dropWhile (fun e => e.closed.isSome) = rest.dropWhile (fun e => e.closed.isSome) := by simp [hc]
  unfold Releases at ih ⊢
  rw [releasable_cons_closed hc, hdw]
  have houtg := outgoingAfter_cons e c rest s.store.outgoing
  generalize releasable rest = out at *
  obtain ⟨i1, i2, i3, i4, i5⟩ := ih
  refine ⟨?_, by rw [i2, hP, hnat]; rfl, ?_, ?_, by rw [i5, hur, hring]; rfl⟩
  · have hw := writeFold_congr out (s := ringWrite (contentOf e c) s) (t := u) hus (hur.trans hring) huk
    have hfold : (((e, c) :: out).filter fun p => decide (p.1.kind = .base)).foldl (fun v p => stormRecord p.2.slots v) s
        = (out.filter fun p => decide (p.1.kind = .base)).foldl (fun v p => stormRecord p.2.slots v) (stormAt e c s) := by
      unfold stormAt
      by_cases hk : e.kind = .base <;> simp [hk]
    obtain ⟨j1, j2, j3, -, -⟩ := hst.foldl (out.filter fun p => decide (p.1.kind = .base))
    have hbase : (out.zipIdx.filter fun p => decide (p.1.1.kind = .base)).map (fun p =>
        recordUnder u (u.ring.producer + BitVec.ofNat 16 p.2) p.1.1 p.1.2) =
      (out.zipIdx.filter fun p => decide (p.1.1.kind = .base)).map fun p =>
        recordUnder s (s.ring.producer + 1#16 + BitVec.ofNat 16 p.2) p.1.1 p.1.2 := by
      rw [hP]; congr 1; funext p; exact hunder _ _ _
    rw [i1]
    simp only [hw.1, hw.2, hacc, hul, hinf, hobs, hbase, huo, houtg, hfold]
    rw [← obsFold_cons, j1, j2, j3]
    simp only [List.foldl_cons]
    generalize List.foldl _ (ringWrite (contentOf e c) s) out = W
    generalize List.foldl _ (stormAt e c s) _ = J
    generalize (if s.accepts = true then _ else _ : List ObsPacket) = Q
    rw [hu]
    rfl
  · intro i e' k hi
    cases i with
    | zero =>
      simp only [List.getElem?_cons_zero, Option.some.injEq, Prod.mk.injEq] at hi
      obtain ⟨rfl, rfl⟩ := hi
      simp only [BitVec.add_zero]
      rw [i4 _ ?_]
      · exact hrec
      · intro j hj
        rw [hP, hnat]
        simp only [BitVec.toNat_add, BitVec.toNat_ofNat]
        have := s.ring.producer.isLt
        omega
    | succ i =>
      simp only [List.getElem?_cons_succ] at hi
      have := i3 i e' k hi
      rwa [hP, hnat, hunder] at this
  · intro x hx
    rw [i4 x]
    · refine hoth x ?_
      have := hx 0 (by simp)
      simpa using this
    · intro i hi
      rw [hP, hnat]
      exact hx (i + 1) (by simp; omega)

/-- The release of the assembly queue (R108) leaves a state that `Releases` describes. -/
theorem releaseFrom_releases (q : List Entry) : ∀ s : State, (s.straps.role = .vector ∨ s.straps.role = .scalar) →
    q.length ≤ 4 → Releases q s (releaseFrom q (s.withAssembler { s.assembler with queue := q })) := by
  induction q with
  | nil => exact fun s _ _ => releases_nothing [] s rfl rfl
  | cons e rest ih =>
    intro s hr hlen
    cases hc : e.closed with
    | none =>
      have hrel : releaseFrom (e :: rest) (s.withAssembler { s.assembler with queue := e :: rest }) =
          s.withAssembler { s.assembler with queue := e :: rest } := by unfold releaseFrom; simp [hc]
      rw [hrel]
      exact releases_nothing _ s (releasable_cons_open hc rest) (by simp [hc])
    | some c =>
      have h1 := releaseOne_spec e c rest (s.withAssembler { s.assembler with queue := e :: rest }) hr
      have hrel : releaseFrom (e :: rest) (s.withAssembler { s.assembler with queue := e :: rest }) =
          releaseFrom rest (releaseOne e c rest (s.withAssembler { s.assembler with queue := e :: rest })) := by
        conv_lhs => unfold releaseFrom
        simp only [hc]
      rw [hrel]
      generalize releaseOne e c rest (s.withAssembler { s.assembler with queue := e :: rest }) = u at h1 ⊢
      obtain ⟨hsame, hstand, hinf⟩ := stormAt_frame e c s { s.assembler with queue := e :: rest } rfl
      generalize hv : stormAt e c (s.withAssembler { s.assembler with queue := e :: rest }) = v at h1 hsame hstand hinf
      have hue : u = u.withAssembler { u.assembler with queue := rest } := by rw [h1]; rfl
      have ih' := ih u (by rw [h1]; exact hr) (by simp at hlen; omega)
      rw [← hue] at ih'
      refine releases_cons hc (by simp at hlen; omega) h1 rfl rfl ?_ ?_ hinf rfl ih'
      · obtain ⟨k1, k2, k3, k4, k5⟩ := hsame
        rw [h1]
        refine ⟨k1, k2, ?_, ?_, ?_⟩
        · simp only [State.withStore_line, State.withAssembler_line, State.withLine_line]
          rw [k3]
        · rw [← k4, hstand.2.1]; rfl
        · rw [← k5, hstand.2.2]; rfl
      · rw [h1]
        show decide _ = decide _
        simp only [State.withStore_line, State.withAssembler_line, State.withLine_line, hstand.1]

/-! ## Closes that lead to a release -/

/-- In roles V and S an entry closes as `closedNow` says. -/
theorem closeEntry_eq (s : State) (hr : s.straps.role = .vector ∨ s.straps.role = .scalar) (cause : CloseCause) (e : Entry) :
    closeEntry s cause e = closedNow cause s e := by
  unfold closeEntry closedNow closeWith
  rcases hr with hr | hr <;> cases e.closed <;> simp [hr]

/-- Closing the entries that are due, and what follows (R107, R108). -/
theorem closeAndRelease_releases (due : Entry → Bool) (cause : CloseCause) (s : State)
    (hr : s.straps.role = .vector ∨ s.straps.role = .scalar) (hl : s.assembler.queue.length ≤ 4) :
    Releases (s.assembler.queue.map fun e => if due e then closedNow cause s e else e) s (closeAndRelease due cause s) := by
  have h := releaseFrom_releases (s.assembler.queue.map fun e => if due e then closedNow cause s e else e) s hr (by simpa using hl)
  unfold closeAndRelease
  simp only [closeEntry_eq s hr]
  exact h

/-- Closing the entries of a queue that have all they await, and what follows (R104 to R108). -/
theorem closeComplete_releases (q : List Entry) (s : State) (hr : s.straps.role = .vector ∨ s.straps.role = .scalar)
    (hl : q.length ≤ 4) :
    Releases (q.map (closedIfComplete s)) s (closeComplete (s.withAssembler { s.assembler with queue := q })) := by
  have h : (q.map fun e => if e.isComplete s.straps.role = true then closeEntry (s.withAssembler { s.assembler with queue := q })
      .complete e else e) = q.map (closedIfComplete s) := by
    have hce : ∀ e, closeEntry (s.withAssembler { s.assembler with queue := q }) .complete e = closedNow .complete s e :=
      fun e => closeEntry_eq (s.withAssembler { s.assembler with queue := q }) hr .complete e
    simp only [hce]
    congr 1
    funext e
    unfold closedIfComplete Entry.isComplete
    rcases hr with hr | hr <;> cases hs : e.scalarSource <;> simp [hr]
  have hrel : closeComplete (s.withAssembler { s.assembler with queue := q }) =
      releaseFrom (q.map (closedIfComplete s)) (s.withAssembler { s.assembler with queue := q.map (closedIfComplete s) }) := by
    rw [← h]; rfl
  rw [hrel]
  exact releaseFrom_releases _ s hr (by simpa using hl)

end Sys2Proof.Machine
end

