-- ==== Sys2Proof/WellFormed.lean ====
section
/-! DEFINITION. Which commands are well formed: operands that the line and the pins can carry. `exec`
is total and gives ill-formed commands a meaning too; the checks say which terms stand for an event
that can happen. -/

namespace Sys2Proof

/-- The longest payload of a good packet (R11). -/
def maxPayload : Nat := 48

/-- Question codes 1 to 11 name the eleven questions; all other codes name none (Figure 12-2). -/
def namesQuestion (code : Byte) : Bool := 1 ≤ code.toNat && code.toNat ≤ 11

/-- An ASK fits a packet: target, tag, code and operands together are at most 48 bytes (R4, R11). -/
def Ask.fits (a : Ask) : Bool := 3 + a.operands.length ≤ maxPayload

/-- The payload bytes a received packet hands over with a command that carries one (empty for the other
commands). An ASK's question code is shown as 0 where the command itself fixes it. -/
def Instr.payload : Instr → List Byte
  | .flagReceived _ p | .rollReceived _ p | .markReceived _ p | .tempReceived _ p
  | .obsReceived _ p | .replyReceived _ p | .askDropped _ p => p
  | .status a | .readWindow a | .consume a | .tableRead a | .tableWrite a | .tableCommit a
  | .tableDiscard a | .tempNow a | .fence a | .clearConditions a
  | .restartWarm a _ | .restartCold a _ => a.target :: a.tag :: 0#8 :: a.operands
  | .unknownQuestion a c => a.target :: a.tag :: c :: a.operands
  | .lineIdle | .sendBegin | .contestLost | .bitFault _ | .sendEnd _ | .receiveFault _
  | .ownNumberPacket | .joiningCountExpiry | .presenceExpiry _ | .disturbanceInputChange _ _
  | .debounceExpiry _ | .rollOffer | .markOffer | .lockChange _ | .ppsAgeExpiry | .ppsEdge
  | .roundEnd | .syncEdge | .conversionSetComplete _ | .baseEpoch | .fastEpoch | .holdExpiry
  | .promotion | .queryConsideration | .queryTimeout _ | .tempPublication | .supplyFall
  | .supplyRecovery _ | .resetAsserted | .resetReleased _ | .oscillatorEdge | .serialClockEdge _
  | .dominantLevelWhileNotIdle => []

/-- A presence entry exists for stations 1 to 30 only (R23). -/
def stationNumbered (n : Station) : Bool := 1 ≤ n.toNat && n.toNat ≤ 30

/-- The command is one that the node's surroundings can send:
its packet is at most 48 bytes long (R11); PRESENCE_EXPIRY names a station of the peer table (R23);
RESTART_COLD carries the kind COLD and RESTART_WARM any other operand (R159); UNKNOWN_QUESTION's code
names no question (R151). -/
def Instr.wellFormed (i : Instr) : Bool :=
  decide (i.payload.length ≤ maxPayload) &&
  match i with
  | .presenceExpiry n => stationNumbered n
  | .restartWarm a _ => decide (a.operands ≠ [1#8])
  | .restartCold a _ => decide (a.operands = [1#8])
  | .unknownQuestion _ c => !namesQuestion c
  | _ => true

end Sys2Proof
end

