-- ==== Sys2Proof/Laws/PerInstr.lean ====
section
/-! SUPPORT. The statement made command by command: a well-formed command's payload fits a packet. -/

namespace Sys2Proof.Laws

/-- A well-formed command hands over at most 48 payload bytes (R4, R11). -/
def PayloadFits.Statement (i : Instr) : Prop := i.wellFormed = true → i.payload.length ≤ 48

/-- The length check is the first that `Instr.wellFormed` makes. -/
theorem PayloadFits.of_wellFormed (i : Instr) : PayloadFits.Statement i := by
  intro h
  unfold Instr.wellFormed at h
  rw [Bool.and_eq_true] at h
  exact of_decide_eq_true h.1

theorem PayloadFits.lineIdle : PayloadFits.Statement (.lineIdle) := PayloadFits.of_wellFormed _
theorem PayloadFits.sendBegin : PayloadFits.Statement (.sendBegin) := PayloadFits.of_wellFormed _
theorem PayloadFits.contestLost : PayloadFits.Statement (.contestLost) := PayloadFits.of_wellFormed _
theorem PayloadFits.bitFault (afterContest : Bool) : PayloadFits.Statement (.bitFault afterContest) := PayloadFits.of_wellFormed _
theorem PayloadFits.sendEnd (acked : Bool) : PayloadFits.Statement (.sendEnd acked) := PayloadFits.of_wellFormed _
theorem PayloadFits.receiveFault (kind : ReceiveFaultKind) : PayloadFits.Statement (.receiveFault kind) := PayloadFits.of_wellFormed _
theorem PayloadFits.ownNumberPacket : PayloadFits.Statement (.ownNumberPacket) := PayloadFits.of_wellFormed _
theorem PayloadFits.joiningCountExpiry : PayloadFits.Statement (.joiningCountExpiry) := PayloadFits.of_wellFormed _
theorem PayloadFits.presenceExpiry (station : Station) : PayloadFits.Statement (.presenceExpiry station) := PayloadFits.of_wellFormed _
theorem PayloadFits.disturbanceInputChange (input : DistInput) (active : Bool) : PayloadFits.Statement (.disturbanceInputChange input active) := PayloadFits.of_wellFormed _
theorem PayloadFits.debounceExpiry (input : DistInput) : PayloadFits.Statement (.debounceExpiry input) := PayloadFits.of_wellFormed _
theorem PayloadFits.rollOffer : PayloadFits.Statement (.rollOffer) := PayloadFits.of_wellFormed _
theorem PayloadFits.flagReceived (source : Station) (payload : List Byte) : PayloadFits.Statement (.flagReceived source payload) := PayloadFits.of_wellFormed _
theorem PayloadFits.rollReceived (source : Station) (payload : List Byte) : PayloadFits.Statement (.rollReceived source payload) := PayloadFits.of_wellFormed _
theorem PayloadFits.markOffer : PayloadFits.Statement (.markOffer) := PayloadFits.of_wellFormed _
theorem PayloadFits.markReceived (source : Station) (payload : List Byte) : PayloadFits.Statement (.markReceived source payload) := PayloadFits.of_wellFormed _
theorem PayloadFits.lockChange (active : Bool) : PayloadFits.Statement (.lockChange active) := PayloadFits.of_wellFormed _
theorem PayloadFits.ppsAgeExpiry : PayloadFits.Statement (.ppsAgeExpiry) := PayloadFits.of_wellFormed _
theorem PayloadFits.ppsEdge : PayloadFits.Statement (.ppsEdge) := PayloadFits.of_wellFormed _
theorem PayloadFits.roundEnd : PayloadFits.Statement (.roundEnd) := PayloadFits.of_wellFormed _
theorem PayloadFits.syncEdge : PayloadFits.Statement (.syncEdge) := PayloadFits.of_wellFormed _
theorem PayloadFits.conversionSetComplete (bit : Bool) : PayloadFits.Statement (.conversionSetComplete bit) := PayloadFits.of_wellFormed _
theorem PayloadFits.baseEpoch : PayloadFits.Statement (.baseEpoch) := PayloadFits.of_wellFormed _
theorem PayloadFits.fastEpoch : PayloadFits.Statement (.fastEpoch) := PayloadFits.of_wellFormed _
theorem PayloadFits.holdExpiry : PayloadFits.Statement (.holdExpiry) := PayloadFits.of_wellFormed _
theorem PayloadFits.promotion : PayloadFits.Statement (.promotion) := PayloadFits.of_wellFormed _
theorem PayloadFits.tempReceived (source : Station) (payload : List Byte) : PayloadFits.Statement (.tempReceived source payload) := PayloadFits.of_wellFormed _
theorem PayloadFits.obsReceived (source : Station) (payload : List Byte) : PayloadFits.Statement (.obsReceived source payload) := PayloadFits.of_wellFormed _
theorem PayloadFits.queryConsideration : PayloadFits.Statement (.queryConsideration) := PayloadFits.of_wellFormed _
theorem PayloadFits.queryTimeout (tag : BitVec 4) : PayloadFits.Statement (.queryTimeout tag) := PayloadFits.of_wellFormed _
theorem PayloadFits.replyReceived (source : Station) (payload : List Byte) : PayloadFits.Statement (.replyReceived source payload) := PayloadFits.of_wellFormed _
theorem PayloadFits.tempPublication : PayloadFits.Statement (.tempPublication) := PayloadFits.of_wellFormed _
theorem PayloadFits.status (ask : Ask) : PayloadFits.Statement (.status ask) := PayloadFits.of_wellFormed _
theorem PayloadFits.readWindow (ask : Ask) : PayloadFits.Statement (.readWindow ask) := PayloadFits.of_wellFormed _
theorem PayloadFits.consume (ask : Ask) : PayloadFits.Statement (.consume ask) := PayloadFits.of_wellFormed _
theorem PayloadFits.tableRead (ask : Ask) : PayloadFits.Statement (.tableRead ask) := PayloadFits.of_wellFormed _
theorem PayloadFits.tableWrite (ask : Ask) : PayloadFits.Statement (.tableWrite ask) := PayloadFits.of_wellFormed _
theorem PayloadFits.tableCommit (ask : Ask) : PayloadFits.Statement (.tableCommit ask) := PayloadFits.of_wellFormed _
theorem PayloadFits.tableDiscard (ask : Ask) : PayloadFits.Statement (.tableDiscard ask) := PayloadFits.of_wellFormed _
theorem PayloadFits.tempNow (ask : Ask) : PayloadFits.Statement (.tempNow ask) := PayloadFits.of_wellFormed _
theorem PayloadFits.fence (ask : Ask) : PayloadFits.Statement (.fence ask) := PayloadFits.of_wellFormed _
theorem PayloadFits.clearConditions (ask : Ask) : PayloadFits.Statement (.clearConditions ask) := PayloadFits.of_wellFormed _
theorem PayloadFits.restartWarm (ask : Ask) (pins : StrapPins) : PayloadFits.Statement (.restartWarm ask pins) := PayloadFits.of_wellFormed _
theorem PayloadFits.restartCold (ask : Ask) (pins : StrapPins) : PayloadFits.Statement (.restartCold ask pins) := PayloadFits.of_wellFormed _
theorem PayloadFits.unknownQuestion (ask : Ask) (code : Byte) : PayloadFits.Statement (.unknownQuestion ask code) := PayloadFits.of_wellFormed _
theorem PayloadFits.supplyFall : PayloadFits.Statement (.supplyFall) := PayloadFits.of_wellFormed _
theorem PayloadFits.supplyRecovery (moment : SupplyMoment) : PayloadFits.Statement (.supplyRecovery moment) := PayloadFits.of_wellFormed _
theorem PayloadFits.resetAsserted : PayloadFits.Statement (.resetAsserted) := PayloadFits.of_wellFormed _
theorem PayloadFits.resetReleased (pins : StrapPins) : PayloadFits.Statement (.resetReleased pins) := PayloadFits.of_wellFormed _
theorem PayloadFits.oscillatorEdge : PayloadFits.Statement (.oscillatorEdge) := PayloadFits.of_wellFormed _
theorem PayloadFits.serialClockEdge (bit : Bool) : PayloadFits.Statement (.serialClockEdge bit) := PayloadFits.of_wellFormed _
theorem PayloadFits.askDropped (source : Station) (payload : List Byte) : PayloadFits.Statement (.askDropped source payload) := PayloadFits.of_wellFormed _
theorem PayloadFits.dominantLevelWhileNotIdle : PayloadFits.Statement (.dominantLevelWhileNotIdle) := PayloadFits.of_wellFormed _

end Sys2Proof.Laws
end

