-- ==== Sys2Proof/Tests/Slice0.lean ====
section
/-! SUPPORT. The model's own tests: a smoke test for each check of WellFormed, the manual's worked examples
and tables on small states, and for each statement of Certificates/Slice0/Obligations.lean with premises
a concrete state that meets them, clause by clause at the bounds. Expected values are the manual's. -/

namespace Sys2Proof.Tests

open Sys2Proof.Machine

/-! ## Helpers -/

/-- The state after a command. -/
def run (c : Instr) (s : State) : State :=
  match exec c s with
  | .next t => t
  | .fault _ => s
  | .refused _ => s

/-- The state after a list of commands. -/
def runAll : List Instr → State → State
  | [], s => s
  | c :: rest, s => runAll rest (run c s)

/-- The state with the line idle. -/
def idle (s : State) : State := s.withLine { s.line with activity := .idle, quiet := 640 }

/-- The state after commands that each meet an idle line, which is idle again afterwards. -/
def talk : List Instr → State → State
  | [], s => idle s
  | c :: rest, s => talk rest (run c (idle s))

/-- The line of the reset state in a standing, with a score, an activity and a recessive count. -/
def lineAt (st : Standing) (score : Nat) (a : LineActivity) (quiet : Nat) : State :=
  State.reset.withLine { State.reset.line with standing := st, score := score, activity := a, quiet := quiet }

/-- Station 3, role V, NORMAL on an idle line. -/
def normal : State := lineAt .normal 0 .idle 640

/-- The same node in another role, its port and store as a restart in that role leaves them. -/
def inRole (r : Role) (s : State) : State :=
  ((s.withStraps { s.straps with role := r }).withPort (freshPort r)).withStore ⟨defaultSet r, 0#16, r, none, none⟩

def atTime (sec : BitVec 32) (tick : Nat) (s : State) : State := s.withClock { s.clock with time := ⟨sec, tick⟩ }

/-- Station 5's entry changed. -/
def withPeer5 (f : Peer → Peer) (s : State) : State := s.withPresence (s.presence.modifyPeer 5#5 f)

/-- An ASK from station 5 to station 3. -/
def ask (ops : List Byte) : Ask := ⟨5#5, 3#8, 2#8, ops⟩

/-- The statuses of the replies that wait. -/
def statuses (s : State) : List Status := s.line.replyQueue.map Reply.status

/-- The strap pins of station 3, role V, rate 3. -/
def pins3 : StrapPins := ⟨3#5, 0#2, 3#2⟩

/-! ## WellFormed -/

theorem test_wf_ok : (Instr.flagReceived 5#5 [0#8]).wellFormed = true := by decide
theorem test_wf_longPayload : (Instr.flagReceived 5#5 (List.replicate 49 0#8)).wellFormed = false := by decide
theorem test_wf_longAsk : (Instr.status (ask (List.replicate 46 0#8))).wellFormed = false := by decide
theorem test_wf_station0 : (Instr.presenceExpiry 0#5).wellFormed = false := by decide
theorem test_wf_station31 : (Instr.presenceExpiry 31#5).wellFormed = false := by decide
theorem test_wf_warmWithCold : (Instr.restartWarm (ask [1#8]) pins3).wellFormed = false := by decide
theorem test_wf_coldWithWarm : (Instr.restartCold (ask [0#8]) pins3).wellFormed = false := by decide
theorem test_wf_knownQuestion : (Instr.unknownQuestion (ask []) 1#8).wellFormed = false := by decide

/-! ## Section 1 -/

/-- Figure 1-1: bit times of 160, 80, 40 and 20 ticks. -/
theorem test_bitTimes : [bitTicks 0#2, bitTicks 1#2, bitTicks 2#2, bitTicks 3#2] = [160, 80, 40, 20] := by decide

/-- R4: the shortest packet, without payload, takes 40 bit times; one of 48 bytes takes 424. -/
theorem test_packetBitTimes : packetBitTimes 0 = 40 ∧ packetBitTimes 48 = 424 := by decide

/-- A station alone on the line sends a FLAG that nobody acknowledges. -/
def loneSend (s : State) : State :=
  run (.sendEnd false) (run .sendBegin (s.withLine { s.line with activity := .idle, quiet := 640, flagSlot := some .clear }))

/-- Figure 1-9: the twelfth absence takes 88 to 96 and NORMAL to RESTRAINED; the thirteenth changes nothing. -/
theorem test_loneNode :
    (loneSend (lineAt .normal 80 .idle 640)).line.score = 88 ∧
    (loneSend (lineAt .normal 88 .idle 640)).line.score = 96 ∧
    (loneSend (lineAt .normal 88 .idle 640)).line.standing = .restrained ∧
    (loneSend (lineAt .restrained 96 .idle 640)).line.score = 96 := by decide +kernel

/-- Figure 1-9: acknowledged sends bring a RESTRAINED node from 65 to 64 and to NORMAL. -/
theorem test_recovery :
    (run (.sendEnd true) (run .sendBegin ((lineAt .restrained 65 .idle 640).withLine
      { (lineAt .restrained 65 .idle 640).line with flagSlot := some .clear }))).line.standing = .normal := by decide +kernel

/-- Figure 1-10: own-number packets take a RESTRAINED node at 184 to 192, WITHDRAWN, with DUPLICATE. -/
theorem test_duplicatePair :
    (run .ownNumberPacket (lineAt .restrained 184 .idle 640)).line.standing = .withdrawn ∧
    (run .ownNumberPacket (lineAt .restrained 184 .idle 640)).conditions.duplicate = true ∧
    (run .ownNumberPacket (lineAt .withdrawn 248 .idle 640)).line.score = 255 := by decide +kernel

/-- Figure 1-7: a good packet takes a WITHDRAWN node from 65 to 64 and to JOINING, where it stays (log entry 35); the
next good packet ends JOINING. -/
theorem test_returnByJoining :
    let good := fun s => run (.markReceived 5#5 []) (s.withLine { s.line with activity := .idle })
    let s := good (lineAt .withdrawn 65 .idle 640)
    (s.line.score = 64 ∧ s.line.standing = .joining) ∧ (good s).line.standing = .normal := by decide +kernel

/-- The places of the arbiter's worked example: three replies, one OBS packet, a TEMP, an ASK. -/
def arbiterStart : State :=
  let w : Reply := ⟨30#5, 1#8, 2#8, .done, .empty⟩
  normal.withLine
    { normal.line with
      replyQueue := [w, w, w], obsQueue := [.fence ⟨30#5, 1#8, ⟨0#32, 0⟩, 0#16⟩]
      tempSlot := some ⟨.vector, [none, none]⟩, askQueue := [⟨7#5, 6#4⟩] }

/-- One start and its end, the line idle before it. -/
def start (fin : Instr) (s : State) : State := run fin (run .sendBegin (s.withLine { s.line with activity := .idle, quiet := 640 }))

/-- Figure 1-12: the positions 2, 2, 3, 3, 4, 5, 1, 2 after the eight starts, and every place empty. -/
theorem test_arbiter :
    let s1 := start (.sendEnd true) arbiterStart
    let s2 := start .contestLost s1
    let s3 := start (.sendEnd true) s2
    let s4 := start (.sendEnd true) (s3.withLine { s3.line with markSlot := some 9#8 })
    let s5 := start (.sendEnd true) s4
    let s6 := start (.sendEnd false) s5
    let s7 := start (.sendEnd true) s6
    let s8 := start (.sendEnd true) s7
    [s1, s2, s3, s4, s5, s6, s7, s8].map (fun s => s.line.cycle) = [2, 2, 3, 3, 4, 5, 1, 2] ∧
    [s1, s2, s3, s4, s5, s6, s7, s8].map (fun s => s.line.replyQueue.length) = [2, 2, 2, 2, 1, 1, 1, 0] ∧
    s8.line.emptied = s8.line := by decide +kernel

/-! ## Section 2 -/

/-- Figure 2-5: at the 500,000th tick the own DOOR becomes true and a FLAG with DOOR alone is offered. -/
theorem test_doorOpens :
    let s := (run (.disturbanceInputChange .door true) normal).withPresence { normal.presence with debounce0 := 499999 }
    (run (.debounceExpiry .door) s).presence.own.door = false ∧
    (runAll [.oscillatorEdge, .debounceExpiry .door] s).presence.own = ⟨false, true, false, false⟩ ∧
    (runAll [.oscillatorEdge, .debounceExpiry .door] s).line.flagSlot = some ⟨false, true, false, false⟩ := by decide +kernel

/-! ## Section 3 -/

/-- The trim accumulator's worked example at edges 1,524,390 and 1,524,391, with a trim of 656 ppb. -/
theorem test_trimAccumulator :
    let at656 := fun a : Int => normal.withClock { normal.clock with rateTrim := 131, slew := 525, accumulator := a }
    (run .oscillatorEdge (at656 999999184)).clock.accumulator = 999999840 ∧
    (run .oscillatorEdge (at656 999999184)).clock.time = ⟨0#32, 1⟩ ∧
    (run .oscillatorEdge (at656 999999840)).clock.accumulator = 496 ∧
    (run .oscillatorEdge (at656 999999840)).clock.time = ⟨0#32, 2⟩ := by decide +kernel

/-- Figure 3-6, second 5001: MARK 41 reporting MARK 40 at 5000.0000000 gives d = +42 against 4999.9999958. -/
theorem test_markPairing :
    let s := withPeer5 (fun e => { e with capture := some ⟨40#8, ⟨4999#32, 9999958⟩⟩ }) normal
    ((run (.markReceived 5#5 ([41#8, 40#8] ++ timeBytes ⟨5000#32, 0⟩ ++ [1#8, 0#8])) s).presence.peer 5#5).sample
      = some ⟨42, 1⟩ := by decide +kernel

/-! ## Section 4 -/

/-- The worked round end: candidates 42, 38, 55, 41 give c = 42, slew 525 ppb, rate trim 131 ppb. -/
theorem test_roundEnd : correction [42, 38, 55, 41] = 42 ∧ slewFor 42 = 525 ∧ trimFor 0 42 = 131 := by decide

/-- The founding pair: candidates -2,700,000 and 0 step station 6 from 16.0 to 15.8650000. -/
theorem test_foundingPair :
    correction [-2700000, 0] = -1350000 ∧ (HutTime.mk 16#32 0).add (-1350000) = ⟨15#32, 8650000⟩ := by decide

/-! ## Section 5 -/

/-- Figure 5-5: a TE word of -6,200 is held at -5,000; the invalid code leaves TS at 1,240. -/
theorem test_temperatureWords :
    mergeTemps [decodeTemp 0x800000#24, decodeTemp (BitVec.ofInt 24 (-6200))] [some 1240, some (-1850)]
      = [some 1240, some (-5000)] := by decide

/-- Figure 5-5: an X word of +8,388,607 is FULL SCALE, a Z word of -8,388,608 INVALID. -/
theorem test_fieldWords : decodeField 0x7FFFFF#24 = .fullScale 8388607 ∧ decodeField 0x800000#24 = .invalid := by decide

/-- R72: a SYNC before the set is complete discards it and sets PARTIAL. -/
theorem test_glitch :
    (run .syncEdge normal).conditions.partialSet = false ∧
    (runAll [.syncEdge, .serialClockEdge true, .syncEdge] normal).conditions.partialSet = true := by decide +kernel

/-! ## Section 6 -/

/-- A store at edition 41, as in Figure 6-8. -/
def edition41 : State := normal.withStore { normal.store with activeEdition := 41#16 }

def writeZ : Instr := .tableWrite (ask (beBytes 2 41 ++ [1#8, 3#8, 0#8] ++ beBytes 3 622592 ++ [0#8, 0#8, 0#8, 0#8]))
def writeHeader (e : Nat) : Instr := .tableWrite (ask (beBytes 2 e ++ [0#8, 0#8, 0#8] ++ beBytes 3 5000 ++ [0#8] ++ beBytes 2 30))
def commitOf (e : Nat) : Instr := .tableCommit (ask (beBytes 2 e))

/-- Figure 6-8: DONE, STALE, DONE, STALE, DONE, BUSY, BUSY. -/
theorem test_editionRace :
    statuses (talk [writeZ, writeHeader 41, writeHeader 42, commitOf 42, commitOf 43, writeHeader 43, .tableDiscard (ask [])]
      edition41) = [.done, .stale, .done, .stale, .done, .busy, .busy] := by decide +kernel

/-- Figure 6-8 at 7101.0: the promotion makes edition 43 active and 41 outgoing; a late commit is EMPTY. -/
theorem test_promotion :
    let s := talk [writeZ, writeHeader 42, commitOf 43] edition41
    let t := run .promotion (s.withDue { s.due with promote := true })
    t.store.activeEdition = 43#16 ∧ (t.store.outgoing.map OutgoingSet.edition) = some 41#16 ∧
      (statuses (run (commitOf 43) t)).getLast? = some .empty := by decide +kernel

/-- Section 6, the refused commit: points at -2,000, -2,000 and 2,000 fail at slot 2. -/
theorem test_validation :
    firstFault 1 [⟨⟨65536, .none, 0#5, 0, 3⟩, [⟨-2000, 14, 1100⟩, ⟨-2000, 2, 150⟩, ⟨2000, -15, -900⟩]⟩] = some (1, 2) := by decide

/-! ## Section 7 -/

/-- Channel Z of Figure 7-5. -/
def channelZ : Channel := ⟨⟨622592, .peer, 5#5, 1, 2⟩, [⟨1000, -20, 1500⟩, ⟨2000, -10, -500⟩]⟩

/-- Figure 7-5: interpolation, scaling, coefficients and the corrected value 14,251,957 pT. -/
theorem test_channelZ :
    interpolate 1500000 1500400 ⟨9#32, 9687500⟩ ⟨10#32, 687500⟩ ⟨10#32, 0⟩ = 1500125 ∧
    divRound (1500125 * 622592) 65536 = 14251188 ∧
    coefficient Point.scale 1237 channelZ.points = -18 ∧ coefficient Point.offset 1237 channelZ.points = 1026 ∧
    correct channelZ 14251188 1237 = 14251957 := by decide +kernel

/-- R116's example: 750 pT, and 32,767 with DF_SAT. -/
theorem test_deltaF :
    deltaOf 13000750 3000000 4000000 12000000 = (750, false) ∧
    deltaOf 13040000 3000000 4000000 12000000 = (32767, true) := by decide +kernel

/-- Figure 7-9: onsets 1, 2 and the assertion at the third, with threshold 5,000 and half threshold 2,500. -/
theorem test_stormOnset :
    (judge 5000 ⟨false, 0, 0, none⟩ [1800]).1.onset = 0 ∧ (judge 5000 ⟨false, 0, 0, none⟩ [6200]).1.onset = 1 ∧
    judge 5000 ⟨false, 2, 0, none⟩ [11300] = (⟨true, 0, 0, none⟩, some true) ∧
    (judge 5000 ⟨true, 0, 7, none⟩ [2500]).1.quiet = 0 ∧ (judge 5000 ⟨true, 0, 7, none⟩ [2499]).1.quiet = 8 := by decide

/-- Figure 7-11: 9016.0 reached again reads the cadence and opens nothing; 9016.2 opens with STEP. -/
theorem test_reachedAgain :
    let s := (normal.withAssembler { normal.assembler with lastOpened := some ⟨9016#32, 0⟩, stepMark := true }).withDue
      { Due.clear with second := ⟨9016#32, 0⟩, base := true, fast := some ⟨9016#32, 2000000⟩ }
    (run .baseEpoch s).assembler.queue = [] ∧
    (runAll [.baseEpoch, .fastEpoch] s).assembler.queue.map Entry.step = [true] := by decide +kernel

/-! ## Section 9 -/

/-- The ring of Figure 9-5 with P = 65,534 and C = 64,520 and no place listed. -/
def ringAtWrap : State := normal.withRing ⟨[], 65534#16, 64520#16, 1024, true, []⟩

def writes : Nat → State → State
  | 0, s => s
  | n + 1, s => writes n (ringWrite (.note ⟨9100#32, 0⟩ (.step 1)) s)

/-- Figure 9-5: C after 10, 11 and 12 writes, P, LAPPED. -/
theorem test_ringWrap :
    (writes 10 ringAtWrap).ring.consumer = 64520#16 ∧ (writes 10 ringAtWrap).conditions.lapped = false ∧
    (writes 11 ringAtWrap).ring.consumer = 64521#16 ∧ (writes 11 ringAtWrap).conditions.lapped = true ∧
    (writes 12 ringAtWrap).ring.consumer = 64522#16 ∧ (writes 12 ringAtWrap).ring.producer = 10#16 ∧
    (writes 1 ringAtWrap).ring.places.map Prod.fst = [1022] := by decide +kernel

/-- The worked CONSUME: s = 1 behind P = 11 is DONE and leaves C = 2. -/
theorem test_consume :
    let s := normal.withRing ⟨[], 11#16, 64523#16, 1024, true, []⟩
    (run (.consume (ask (beBytes 2 1))) s).ring.consumer = 2#16 ∧
      statuses (run (.consume (ask (beBytes 2 1))) s) = [.done] := by decide +kernel

/-- R145: after a write that laps over s = 64,520, its CONSUME is answered TOO_OLD, and C stays s + 1; R142: once
the moment is over, RANGE (log entry 34). -/
theorem test_lappedConsume :
    let consume := run (.consume (ask (beBytes 2 64520)))
    statuses (consume (writes 11 ringAtWrap)) = [.tooOld] ∧ (consume (writes 11 ringAtWrap)).ring.consumer = 64521#16 ∧
      statuses (consume (run .oscillatorEdge (writes 11 ringAtWrap))) = [.range] := by decide +kernel

/-! ## Section 10 -/

/-- A base record under a sequence number. -/
def baseRecord (q : BitVec 16) : ObsPacket := .record ⟨.vector, 3#5, q, .note ⟨9200#32, 0⟩ (.step 1)⟩

/-- Figure 10-5, 9204.4: B1 to B4 queued, B1 in flight. -/
def fullObs : State := run .sendBegin (normal.withLine { normal.line with obsQueue := [1, 2, 3, 4].map baseRecord })

/-- Figure 10-5: the FENCE is taken with B1 in flight, removes B2 and queues F; the second one is BUSY. -/
theorem test_fence :
    let s := run (.fence (ask [])) fullObs
    s.line.obsQueue = [1, 3, 4].map baseRecord ++ [.fence ⟨5#5, 2#8, ⟨0#32, 0⟩, 1#16⟩] ∧
      s.line.activity = fullObs.line.activity ∧ statuses s = [] ∧
      statuses (run (.fence (ask [])) (run (.sendEnd true) s |> idle)) = [.busy] := by decide +kernel

/-- Eight replies wait, the first in flight. -/
def fullReplies : State :=
  run .sendBegin (normal.withLine { normal.line with replyQueue := List.replicate 8 ⟨30#5, 1#8, 2#8, .done, .empty⟩ })

/-- R150, last paragraph: the ASK first meets the full queue; the send's end first, the place is free and the ASK is
accepted; at a later oscillator edge the moment is over. -/
theorem test_freedPlace :
    let ended := run (.sendEnd true) fullReplies
    let last := fun s : State => s.line.replyQueue.getLast?.map fun r => (r.asker, s.line.replyQueue.length)
    last (run (.tempNow (ask [])) fullReplies) = some (30#5, 8) ∧ last (run (.tempNow (ask [])) ended) = some (5#5, 8) ∧
      last (runAll [.oscillatorEdge, .tempNow (ask [])] ended) = some (30#5, 7) := by decide +kernel

/-- R9: after a bit fault no packet is taken until the line is idle. -/
theorem test_afterBitFault :
    let s := run (.bitFault true) fullObs
    run .ownNumberPacket s = s ∧ (run .ownNumberPacket (idle s)).conditions.duplicate = true := by decide +kernel

/-! ## Section 11 -/

/-- R164 to R166: after a fall of the supply, its rise, and 100 ms above the level the node restarts cold; the ticks
below the level do not count. -/
theorem test_supply :
    let s := run .supplyFall normal
    let t := runAll [.oscillatorEdge, .supplyRecovery .rises, .oscillatorEdge] s
    s.restart.supplyLow = true ∧ (run .oscillatorEdge s).restart.supplyTicks = 0 ∧ t.restart.supplyTicks = 1 ∧
    (run (.supplyRecovery (.stayed pins3)) t).restart.supplyHold = true ∧
    (run (.supplyRecovery (.stayed pins3)) (t.withRestart { t.restart with supplyTicks := 1000000 })).restart.lastKind = .cold ∧
    (runAll [.resetAsserted, .resetReleased pins3] normal).restart.lastKind = .warm := by decide +kernel

/-! ## Section 12 -/

/-- Figure 12-8: an epoch record and a note take 40 bytes each. -/
theorem test_recordLength :
    (recordBytes ⟨.vector, 3#5, 0#16, .note ⟨0#32, 0⟩ (.restart .cold)⟩).length = 40 := by decide

/-- Figure 12-7: a STATUS body takes 33 bytes. -/
theorem test_snapshotLength : (snapshotBytes (snapshot normal)).length = 33 := by decide +kernel

/-! ## Witnesses: states and operands that meet the premises of the statements -/

/-! ### The machine as a whole -/

theorem witness_StepTakesTheFrontCommand :
    (normal.withPending [.lineIdle, .sendBegin]).pending = [.lineIdle, .sendBegin] ∧ normal.pending = [] := ⟨rfl, rfl⟩

/-- A ring that holds two records. -/
def twoRecords : State := writes 2 (normal.withRing ⟨[], 0#16, 0#16, 0, true, []⟩)

theorem witness_RingStaysSound : ∃ s t : State, RingInv s.ring ∧ step s = .next t := by
  refine ⟨twoRecords.withPending [.consume (ask [0#8, 0#8])], _, ⟨⟨by decide, by decide⟩, by decide, by decide, ?_⟩, rfl⟩
  intro q h1 h2
  have hp : (twoRecords.withPending [.consume (ask [0#8, 0#8])]).ring.producer = 2#16 := by decide
  have hw : (twoRecords.withPending [.consume (ask [0#8, 0#8])]).ring.written = 2 := by decide
  rw [hw] at h2
  simp only [Ring.behind, hp] at h1 h2
  have hq : q = 0#16 ∨ q = 1#16 := by bv_omega
  rcases hq with rfl | rfl <;> decide +kernel

/-- Station 5 is PRESENT and asserts STORM. -/
def stormHeard : State :=
  talk [.flagReceived 5#5 [1#8]] normal

theorem witness_WireOrStaysTheOr : ∃ s t : State, WireInv s.presence ∧ step s = .next t :=
  ⟨stormHeard.withPending [.flagReceived 8#5 [2#8]], _, by unfold WireInv; decide +kernel, rfl⟩

theorem witness_StandingStaysInItsBand : ∃ s t : State, LineInv s ∧ step s = .next t := by
  refine ⟨(lineAt .restrained 96 .idle 640).withPending [.receiveFault .tooLong], _,
    ⟨by decide, by decide, by decide, by decide, by decide, by decide, ?_, by decide, by decide, by decide, by decide⟩, rfl⟩
  intro sd h; cases h

theorem witness_QueuesStayWithinCapacity : ∃ s t : State, PlacesInv s.line ∧ step s = .next t :=
  ⟨arbiterStart.withPending [.fence (ask [])], _, by unfold PlacesInv; decide +kernel, rfl⟩

/-- A SET node with a trim at its limit. -/
def trimmed : State :=
  normal.withClock { normal.clock with timeState := .set, rateTrim := 50000, slew := -50000, accumulator := 999999999 }

theorem witness_ClockStaysInRange : ∃ s t : State, ClockInv s ∧ step s = .next t :=
  ⟨trimmed.withPending [.oscillatorEdge], _, by unfold ClockInv; decide +kernel, rfl⟩

/-- A set of station 3 with VALID words. -/
def setAt (sec : BitVec 32) (tick : Nat) : SampleSet :=
  ⟨⟨sec, tick⟩, [.valid 1000000, .valid 2000000, .valid 1500000], [some 1237, some (-1850)]⟩

/-- A history of two sets, and an open set one bit short of its last. -/
def sampled : State :=
  normal.withPort
    ⟨some ⟨⟨12#32, 687500⟩, List.replicate 4 7#24, 23, 3#24⟩, [setAt 10#32 687500, setAt 11#32 687500], [some 1237, none]⟩

theorem witness_HistoryStaysOrdered : ∃ s t : State, HistoryInv s ∧ step s = .next t := by
  refine ⟨sampled.withPending [.serialClockEdge true], _, ⟨by decide, by decide +kernel, by decide, by decide, ?_⟩, rfl⟩
  intro o h; cases h; decide

/-- A node with an open pending set. -/
def editing : State := talk [writeZ, writeHeader 42] edition41

theorem witness_CorrectionSetsStayValid : ∃ s t : State, StoreInv s ∧ step s = .next t := by
  refine ⟨editing.withPending [commitOf 43], _,
    ⟨by decide +kernel, by unfold SetShape; decide +kernel, by unfold PointsRise; decide +kernel, by decide +kernel,
      ?_, ?_, by decide +kernel⟩, rfl⟩
  · intro p h
    have : (editing.store.pendingSet.all fun p =>
        decide ((p.content.channels.length = 3 ∧ ∀ ch ∈ p.content.channels, ch.points.length = 8) ∧
          p.edition ≠ 0#16 ∧ p.scheduled = false)) = true := by decide +kernel
    rw [show editing.store.pendingSet = some p from h] at this
    obtain ⟨h1, h2, h3⟩ := of_decide_eq_true this
    exact ⟨h1, h2, fun h => absurd (h.symm.trans h3) (by decide)⟩
  · intro o h
    have : editing.store.outgoing = none := by decide +kernel
    exact absurd (this.symm.trans h) (by simp)

/-- One base entry open for second 20. -/
def oneOpen : State :=
  run .baseEpoch ((atTime 20#32 0 normal).withDue { Due.clear with second := ⟨20#32, 0⟩, base := true })

theorem witness_AssemblyQueueStaysOrdered : ∃ s t : State, AssemblyInv s ∧ step s = .next t := by
  refine ⟨oneOpen.withPending [.holdExpiry], _,
    ⟨by decide +kernel, by decide +kernel, ?_, by decide +kernel, ?_, by decide +kernel⟩, rfl⟩
  · intro e h
    have : (oneOpen.assembler.queue.getLast?.map Entry.instant) = oneOpen.assembler.lastOpened := by decide +kernel
    rw [← show oneOpen.assembler.lastOpened = (oneOpen.withPending [.holdExpiry]).assembler.lastOpened from rfl, ← this]
    rw [show oneOpen.assembler.queue.getLast? = some e from h]; rfl
  · intro e h
    have : (oneOpen.assembler.queue.head?.all fun e => decide (e.closed = none)) = true := by decide +kernel
    rw [show oneOpen.assembler.queue.head? = some e from h] at this
    simpa using this

/-- One TEMP entry for station 5 with a query pending, one OBS entry for station 8. -/
def querying : State :=
  normal.withQuery ⟨[⟨5#5, .temp none⟩, ⟨8#5, .obs none⟩], [⟨6#4, 5#5, 1, ⟨0#32, 0⟩⟩], 7#4⟩

theorem witness_PendingQueriesStayDistinct : ∃ s t : State, QueryInv s.query ∧ step s = .next t :=
  ⟨querying.withPending [.queryTimeout 6#4], _, by unfold QueryInv; decide, rfl⟩

/-! ### Section 1 -/

/-- 8 bit times at rate 3 are 160 ticks: the count at its bound and one below it. -/
theorem witness_LineIdleAndDominantLevels :
    let s := fun q => lineAt .normal 0 .waiting q
    ((s 160).running = true ∧ (s 160).line.activity = .waiting ∧ 8 * bitTicks (s 160).straps.rate ≤ (s 160).line.quiet) ∧
    ((s 159).running = true ∧ (s 159).line.quiet < 8 * bitTicks (s 159).straps.rate) ∧
    ((s 159).line.activity ≠ .idle) ∧ (normal.running = true ∧ normal.line.activity = .idle ∧ normal.line.activity ≠ .waiting) := by
  decide

def markAndFlag : State :=
  (lineAt .restrained 96 .idle 640).withLine
    { (lineAt .restrained 96 .idle 640).line with cycle := 5, markSlot := some 0#8, flagSlot := some .clear }

def flagOnly : State := normal.withLine { normal.line with flagSlot := some .clear }

theorem witness_SendBeginsWithTheArbitersChoice :
    (MayBegin arbiterStart ∧ arbiterStart.line.hasPacket = true ∧ arbiterStart.line.cycle = 1 ∧
      arbiterStart.line.markSlot = none ∧ arbiterStart.line.flagSlot = none) ∧
    (MayBegin markAndFlag ∧ markAndFlag.line.hasPacket = true ∧ markAndFlag.line.cycle = 5 ∧
      markAndFlag.line.markSlot = some 0#8) ∧
    (MayBegin flagOnly ∧ flagOnly.line.hasPacket = true ∧ flagOnly.line.cycle = 1 ∧ flagOnly.line.markSlot = none ∧
      flagOnly.line.flagSlot.isSome = true) ∧
    ¬ MayBegin (lineAt .restrained 96 .idle 639) ∧ ¬ (normal.line.hasPacket = true) := by
  unfold MayBegin LineInterface.hasPacket; decide +kernel

/-- A MARK in flight, and a FLAG in flight that a newer FLAG has replaced. -/
def markInFlight : State := run .sendBegin (normal.withLine { normal.line with markSlot := some 40#8 })
def flagInFlight (score : Nat) (st : Standing) : State :=
  run (.debounceExpiry .door)
    ((run .sendBegin ((lineAt st score .idle 640).withLine { (lineAt st score .idle 640).line with flagSlot := some .clear })).withPins
      { normal.pins with dist0 := true } |>.withPresence { normal.presence with debounce0 := 500000 })

theorem witness_HowASendEnds :
    (∃ sd m c, markInFlight.running = true ∧ markInFlight.line.activity = .sending sd ∧ markInFlight.line.score < 96 ∧
      sd.packet = .mark m ∧ sd.capture = some c) ∧
    (∃ sd, (flagInFlight 95 .normal).running = true ∧ (flagInFlight 95 .normal).line.activity = .sending sd ∧
      (flagInFlight 95 .normal).line.score < 96 ∧ (∀ m, sd.packet ≠ .mark m)) ∧
    (∃ sd, (flagInFlight 96 .restrained).line.activity = .sending sd ∧ 96 ≤ (flagInFlight 96 .restrained).line.score) :=
  ⟨⟨_, _, _, by decide +kernel, rfl, by decide +kernel, rfl, rfl⟩,
    ⟨_, by decide +kernel, rfl, by decide +kernel, fun m h => by cases h⟩, ⟨_, rfl, by decide +kernel⟩⟩

theorem witness_ReceiveFaultAddsOne :
    (normal.running = true ∧ normal.line.activity = .idle) ∧
    (lineAt .joining 0 (.receiving none) 0).line.activity = .receiving none ∧
    State.reset.line.activity = .waiting ∧ (∃ sd, markInFlight.line.activity = .sending sd) :=
  ⟨by decide, rfl, rfl, ⟨_, rfl⟩⟩

theorem witness_OwnNumberPacketSetsDuplicate : (lineAt .joining 0 (.receiving none) 0).takesPackets = true := by decide

def joined : State := State.reset.withLine { State.reset.line with joinCount := 2560 }

/-- Each standing at each bound of Figure 1-7; and JOINING's count at 128 bit times, 2,560 ticks. -/
theorem witness_StandingFollowsTheScore :
    (∀ p ∈ [(Standing.joining, 0), (.joining, 95), (.joining, 96), (.joining, 191), (.joining, 192), (.normal, 95), (.normal, 96),
        (.restrained, 64), (.restrained, 65), (.restrained, 191), (.restrained, 192), (.withdrawn, 64), (.withdrawn, 65)],
      (lineAt p.1 p.2 .waiting 0).line.standing = p.1 ∧ (lineAt p.1 p.2 .waiting 0).line.score = p.2) ∧
    (joined.running = true ∧ joined.line.standing = .joining ∧ 128 * bitTicks joined.straps.rate ≤ joined.line.joinCount) := by
  decide

theorem witness_BuiltFrameIsGood : (List.replicate 48 0xA5#8).length ≤ 48 := by decide

/-! ### Section 2 -/

/-- Station 5 was last heard at 0.0; hut time stands at `sec.tick`. -/
def silentFor (sec : BitVec 32) (tick : Nat) : State := atTime sec tick stormHeard

theorem witness_SilentStationBecomesAbsent :
    Numbered 5#5 ∧ ((silentFor 2 9999999).running = true ∧ ((silentFor 2 9999999).presence.peer 5#5).presence = .present ∧
      ((silentFor 2 9999999).presence.peer 5#5).lastHeard = some ⟨0#32, 0⟩ ∧
      (silentFor 2 9999999).clock.time.diff ⟨0#32, 0⟩ < 30000000) ∧
    ((silentFor 3 0).running = true ∧ ((silentFor 3 0).presence.peer 5#5).presence = .present ∧
      ((silentFor 3 0).presence.peer 5#5).lastHeard = some ⟨0#32, 0⟩ ∧
      30000000 ≤ (silentFor 3 0).clock.time.diff ⟨0#32, 0⟩) := by decide +kernel

def contacts : State :=
  (normal.withPins { normal.pins with dist0 := true, dist1 := true }).withPresence
    { normal.presence with debounce0 := 500000, debounce1 := 500000 }

theorem witness_DisturbanceInputIsDebounced :
    contacts.running = true ∧ contacts.presence.wireOr = hutOr contacts.presence.own contacts.presence.peers ∧
      500000 ≤ contacts.presence.debounce0 ∧ contacts.pins.dist0 ≠ contacts.presence.own.door ∧
      500000 ≤ contacts.presence.debounce1 ∧ contacts.pins.dist1 ≠ contacts.presence.own.heater ∧
      normal.accepts = true ∧ (lineAt .withdrawn 200 .waiting 0).accepts = false := by decide +kernel

theorem witness_FlagAndRollReplaceTheWireSet :
    Takes 30#5 stormHeard ∧ Numbered 30#5 ∧ Numbered 1#5 ∧ WireInv stormHeard.presence ∧
      (3#8).toNat ≤ 3 ∧ (1#8).toNat ≤ 1 ∧ (7#8).toNat ≤ 7 := by unfold WireInv; decide +kernel

theorem witness_UnfitPayloadIsDiscarded :
    Takes 31#5 normal ∧ ¬ Numbered 31#5 ∧ ¬ Numbered 0#5 ∧ parseFlag [0#8, 0#8] = none ∧
      parseRoll (List.replicate 10 0#8) = none ∧ parseMark (255#8 :: List.replicate 10 0#8) = none ∧
      parseTemp [0#8, 5#8] = none ∧ parseObs [] = none ∧ parseReply [3#8, 0#8, 8#8] = none ∧
      parseTemp ([4#8, 1#8, 0#8, 0#8]) = none := by decide

theorem witness_DuePacketsAreOffered :
    let s := normal.withDue { Due.clear with mark := true, roll := true, temp := true }
    let w := (lineAt .withdrawn 200 .waiting 0).withDue { Due.clear with mark := true, roll := true, temp := true }
    (s.held = false ∧ s.running = true ∧ s.due.mark = true ∧ s.due.roll = true ∧ s.due.temp = true ∧ s.accepts = true) ∧
    (w.held = false ∧ w.running = true ∧ w.due.mark = true ∧ w.due.roll = true ∧ w.due.temp = true ∧ w.accepts = false) := by decide

/-! ### Section 3 -/

def accAt (a r : Int) : State := normal.withClock { normal.clock with accumulator := a, rateTrim := r, timeState := .set }

/-- A node under STORM cadence. -/
def stormy : State := normal.withAssembler { normal.assembler with cadence := .storm }

/-- The accumulator at both limits and within them; a held part, STRAP FAULT, a waiting and a receiving line;
an advance that stays short of the whole second, and one that reaches it; one that reaches a fast instant. -/
theorem witness_OscillatorEdgeCounts :
    (ClockInv (accAt 999999999 1) ∧ (1000000000 : Int) ≤ 999999999 + (1 + 0)) ∧
    (ClockInv (accAt 999999998 1) ∧ ClockInv (accAt (-999999998) (-1))) ∧
    (ClockInv (accAt (-999999999) (-1)) ∧ (-999999999 : Int) + (-1 + 0) ≤ -1000000000) ∧
    (ClockInv (run .supplyFall normal) ∧ (run .supplyFall normal).held = true ∧ (run .supplyFall normal).running = false) ∧
    (ClockInv normal ∧ normal.running = true ∧ normal.line.activity = .idle) ∧
    (ClockInv (lineAt .normal 0 (.receiving none) 0) ∧ (lineAt .normal 0 (.receiving none) 0).running = true ∧
      (lineAt .normal 0 (.receiving none) 0).line.activity ≠ .waiting) ∧
    (ClockInv (atTime 0 9999998 normal) ∧ (atTime 0 9999998 normal).clock.time.tick + 1 < 10000000 ∧
      normal.assembler.cadence = .base) ∧
    (ClockInv (atTime 7 9999999 normal) ∧ 10000000 ≤ (atTime 7 9999999 normal).clock.time.tick + 1 ∧
      (atTime 7 9999999 normal).held = false) ∧
    (ClockInv (atTime 7 1999999 stormy) ∧ stormy.assembler.cadence = .storm ∧ stormy.straps.role ≠ .clock ∧
      stormy.running = true ∧ (1999999 < 2000000 ∧ 2000000 ≤ 1999999 + 1) ∧ ClockInv (atTime 7 1999998 stormy)) := by
  unfold ClockInv; refine ⟨?_, ?_, ?_, ?_, ?_, ?_, ?_, ?_, ?_⟩ <;> decide +kernel

theorem witness_MarkIsPairedWithTheHeldCapture :
    Takes 30#5 normal ∧ Numbered 30#5 ∧ (254#8 : BitVec 8) ≠ 255#8 ∧ (HutTime.mk 5000#32 9999999).wf = true ∧ 7 ≤ 7 := by decide

/-- A role C node with its reference. -/
def clockNode (lock : Bool) (age : Nat) : State :=
  let s := inRole .clock normal
  (s.withPins { s.pins with lock := lock }).withClock { s.clock with ppsAge := age, refLocked := lock }

theorem witness_ClockRoleFollowsItsReference :
    ((clockNode true 20000000).running = true ∧ (clockNode true 20000000).straps.role = .clock ∧
      20000000 ≤ (clockNode true 20000000).clock.ppsAge ∧ (clockNode true 20000000).pins.lock = true) ∧
    ((clockNode false 19999999).running = true ∧ (clockNode false 19999999).straps.role = .clock ∧
      (clockNode false 19999999).pins.lock = false) ∧
    (normal.running = true ∧ normal.straps.role ≠ .clock) := by decide

/-! ### Section 4 -/

theorem witness_DivisionRoundsToNearest : (0 : Int) < 2 := by decide

theorem witness_CorrectionIsTheTrimmedMean :
    ([42, 38, 55, 41] : List Int) ≠ [] ∧ 4 ≤ ([42, 38, 55, 41] : List Int).length ∧ ([42, 38, 55] : List Int) ≠ [] ∧
      ([42, 38, 55] : List Int).length < 4 := by decide

/-- Station 5 is PRESENT and SET with a sample. -/
def withSample (d : Int) (g : Nat) (s : State) : State :=
  withPeer5 (fun e => { e with presence := .present, lastHeard := some s.clock.time, timeState := .set, sample := some ⟨d, g⟩ }) s

def lockedNode : State :=
  (clockNode true 5).withClock { (clockNode true 5).clock with timeState := .set, ppsSamples := [3] }

def freshOf (s : State) : List OffsetSample :=
  s.presence.peers.filterMap fun e => if e.presence = .present ∧ e.timeState = .set then e.sample else none

theorem witness_GradeFollowsTheBestSamples :
    (lockedNode.straps.role = .clock ∧ lockedNode.clock.timeState = .set ∧ lockedNode.clock.refLocked = true ∧
      lockedNode.clock.ppsSamples ≠ [] ∧ roundGrade lockedNode = 0) ∧
    (normal.straps.role ≠ .clock ∧ freshOf normal = []) ∧
    (freshOf (withSample 42 6 normal) = [⟨42, 6⟩] ∧ freshOf (withSample 42 7 normal) = [⟨42, 7⟩] ∧
      (withSample 42 7 normal).straps.role ≠ .clock) := by decide +kernel

/-- A round end is due at 16.0 with the correction `d`, before the assembler's opening. -/
def roundEndDue (ts : TimeState) (d : Int) : State :=
  let s := withSample d 1 (atTime 16#32 0 normal)
  (s.withClock { s.clock with timeState := ts }).withDue
    { Due.clear with second := ⟨16#32, 0⟩, mark := true, base := true, consider := true, roundEnd := true }

def noSamples (ts : TimeState) : State :=
  (normal.withClock { normal.clock with timeState := ts }).withDue { Due.clear with roundEnd := true }

theorem witness_RoundEndWithoutAStep :
    (∀ c ∈ [(-9999 : Int), 42, 9999], (roundEndDue .set c).running = true ∧ (roundEndDue .set c).due.roundEnd = true ∧
      (roundEndDue .set c).clock.timeState = .set ∧ candidates (roundEndDue .set c) ≠ [] ∧
      correction (candidates (roundEndDue .set c)) = c) ∧
    ((noSamples .set).running = true ∧ (noSamples .set).due.roundEnd = true ∧ (noSamples .set).clock.timeState = .set ∧
      candidates (noSamples .set) = []) ∧
    ((noSamples .unset).running = true ∧ (noSamples .unset).due.roundEnd = true ∧
      (noSamples .unset).clock.timeState = .unset ∧ correction (candidates (noSamples .unset)) = 0) := by decide +kernel

/-- A SET node steps by 10,000 and lands within a second, an UNSET one by -10,000,000 and lands on 15.0; one
entry is open. -/
def stepping (ts : TimeState) (d : Int) : State :=
  (roundEndDue ts d).withAssembler { oneOpen.assembler with storm := ⟨true, 0, 5, some [1, 2, 3]⟩ }

theorem assemblyInv_stepping (ts : TimeState) (d : Int) : AssemblyInv (stepping ts d) := by
  have hq : (stepping ts d).assembler.queue = oneOpen.assembler.queue := rfl
  have hl : (stepping ts d).assembler.lastOpened = oneOpen.assembler.lastOpened := rfl
  have hr : (stepping ts d).straps.role = .vector := rfl
  unfold AssemblyInv
  rw [hq, hl, hr]
  refine ⟨by decide +kernel, by decide +kernel, ?_, by decide +kernel, ?_, by decide⟩
  · intro e h
    have : (oneOpen.assembler.queue.getLast?.map Entry.instant) = oneOpen.assembler.lastOpened := by decide +kernel
    rw [← this, h]; rfl
  · intro e h
    have : (oneOpen.assembler.queue.head?.all fun e => decide (e.closed = none)) = true := by decide +kernel
    rw [h] at this; simpa using this

theorem witness_RoundEndWithAStep :
    (AssemblyInv (stepping .set 10000) ∧ (stepping .set 10000).running = true ∧ (stepping .set 10000).due.roundEnd = true ∧
      (stepping .set 10000).clock.timeState = .set ∧ candidates (stepping .set 10000) ≠ [] ∧
      10000 ≤ correction (candidates (stepping .set 10000)) ∧ (stepping .set 10000).straps.role ≠ .clock ∧
      ((stepping .set 10000).clock.time.add 10000).tick ≠ 0) ∧
    (AssemblyInv (stepping .unset (-10000000)) ∧ (stepping .unset (-10000000)).running = true ∧
      (stepping .unset (-10000000)).due.roundEnd = true ∧ (stepping .unset (-10000000)).clock.timeState = .unset ∧
      correction (candidates (stepping .unset (-10000000))) = -10000000 ∧
      ((stepping .unset (-10000000)).clock.time.add (-10000000)).tick = 0) :=
  ⟨⟨assemblyInv_stepping _ _, by decide +kernel⟩, ⟨assemblyInv_stepping _ _, by decide +kernel⟩⟩

/-! ### Section 5 -/

/-- An open set of station 3 with `w` words and `b` bits of the next. -/
def assembling (w b : Nat) : State :=
  normal.withPort { normal.port with openSet := some ⟨⟨12#32, 687500⟩, List.replicate w 7#24, b, 3#24⟩ }

theorem witness_SyncAndBitsAssembleASet :
    (normal.running = true ∧ normal.port.openSet = none) ∧
    (∃ o, (assembling 4 22).running = true ∧ (assembling 4 22).port.openSet = some o ∧
      o.words.length < wordsPerSet (assembling 4 22).straps.role ∧ o.bits < 23) ∧
    (∃ o, (assembling 3 23).running = true ∧ (assembling 3 23).port.openSet = some o ∧
      o.words.length + 1 < wordsPerSet (assembling 3 23).straps.role ∧ o.bits = 23) :=
  ⟨by decide, ⟨_, by decide, rfl, by decide, by decide⟩, ⟨_, by decide, rfl, by decide, rfl⟩⟩

/-- An entry of 12.0 that awaits only its bracket, and a set of 12.0687500 one bit short. -/
def bracketing : State :=
  (assembling 4 23).withAssembler { normal.assembler with queue := [⟨⟨12#32, 0⟩, .base, 0#16, .clear, 7, .unset, false, none, none, none, none⟩] }

/-- The order check at equal captures and at captures one tick apart; an empty history; an entry that the set completes. -/
theorem witness_LastBitCompletesTheSet :
    (∃ o, (assembling 4 23).running = true ∧ (assembling 4 23).port.openSet = some o ∧
      o.words.length + 1 = wordsPerSet (assembling 4 23).straps.role ∧ o.bits = 23 ∧
      (assembling 4 23).port.history.getLast? = none ∧ (assembling 4 23).assembler.queue = []) ∧
    (∃ o, bracketing.running = true ∧ bracketing.port.openSet = some o ∧ o.words.length + 1 = wordsPerSet bracketing.straps.role ∧
      o.bits = 23 ∧ bracketing.straps.role = .vector ∧ bracketing.assembler.queue.length = 1 ∧
      (run (.conversionSetComplete true) bracketing).assembler.queue = [] ∧
      (run (.conversionSetComplete true) bracketing).line.obsQueue.length = 1) ∧
    (HutTime.mk 12#32 687500).later (setAt 12#32 687500).capture = false ∧
    (HutTime.mk 12#32 687500).later (setAt 12#32 687499).capture = true :=
  ⟨⟨_, by decide, rfl, by decide, rfl, rfl, rfl⟩,
    ⟨_, by decide +kernel, rfl, by decide +kernel, rfl, rfl, by decide +kernel, by decide +kernel, by decide +kernel⟩,
    by decide, by decide⟩

/-! ### Section 7 -/

/-- An epoch instant due at second 20, with the last opened epoch at `last`. -/
def epochDue (last : Option HutTime) : State :=
  (normal.withAssembler { normal.assembler with lastOpened := last }).withDue
    { Due.clear with second := ⟨20#32, 0⟩, base := true, fast := some ⟨20#32, 2000000⟩ }

theorem assemblyInv_of_empty {s : State} (h : s.assembler.queue = []) : AssemblyInv s := by
  simp [AssemblyInv, h, increasing]

theorem witness_EpochInstantOpensAnEntry :
    (∀ last, AssemblyInv (epochDue last) ∧ (epochDue last).running = true ∧ (epochDue last).straps.role = .vector ∧
      (epochDue last).assembler.queue.length < 4 ∧ (epochDue last).due.base = true ∧ (epochDue last).due.promote = false ∧
      (epochDue last).due.fast = some ⟨20#32, 2000000⟩) ∧
    (HutTime.mk 20#32 0).later ⟨19#32, 9999999⟩ = true ∧ (HutTime.mk 20#32 0).later ⟨20#32, 0⟩ = false :=
  ⟨fun last => ⟨assemblyInv_of_empty rfl, rfl, rfl, Nat.zero_lt_succ 3, rfl, rfl, rfl⟩, by decide, by decide⟩

/-- A base and a fast instant after the last opened epoch, and both not later than it. -/
theorem witness_ThermalEpochIsRecordedAtOnce :
    (∀ last, (inRole .thermal (epochDue last)).running = true ∧ (inRole .thermal (epochDue last)).straps.role = .thermal ∧
      AssemblyInv (inRole .thermal (epochDue last)) ∧ (inRole .thermal (epochDue last)).due.base = true ∧
      (inRole .thermal (epochDue last)).due.promote = false ∧ (inRole .thermal (epochDue last)).store.outgoing = none ∧
      (inRole .thermal (epochDue last)).due.fast = some ⟨20#32, 2000000⟩) ∧
    (HutTime.mk 20#32 0).later ⟨19#32, 0⟩ = true ∧ (HutTime.mk 20#32 2000000).later ⟨19#32, 0⟩ = true ∧
    (HutTime.mk 20#32 0).later ⟨20#32, 2000000⟩ = false ∧ (HutTime.mk 20#32 2000000).later ⟨20#32, 2000000⟩ = false :=
  ⟨fun _ => ⟨rfl, rfl, assemblyInv_of_empty rfl, rfl, rfl, rfl, rfl⟩, by decide⟩

/-- R108: a fast record of role T goes to the ring alone; a base one places a TEMP. -/
theorem test_thermalRecords :
    let s := inRole .thermal (epochDue none)
    (run .fastEpoch s).ring.producer = 2#16 ∧ (run .fastEpoch s).line.tempSlot = none ∧
      (run .baseEpoch s).line.tempSlot.isSome = true := by decide +kernel

/-- Two open entries, of editions 0 and 41, with edition 0 outgoing, at the end of the first one's hold. -/
def outgoingHeld : State :=
  let e : Entry := ⟨⟨20#32, 0⟩, .base, 0#16, .clear, 7, .unset, false, none, none, none, none⟩
  ((atTime 20#32 3000000 normal).withStore
    { normal.store with activeEdition := 41#16, outgoing := some ⟨defaultSet .vector, 0#16⟩ }).withAssembler
    { normal.assembler with queue := [e, { e with instant := ⟨20#32, 2000000⟩, kind := .fast, edition := 41#16 }] }

/-- The hold one tick before its end and at its end, of a base entry alone and of a fast entry before a closed one. -/
theorem witness_HoldExpiryClosesTheHead :
    (∃ e, (atTime 20#32 2999999 oneOpen).running = true ∧ (atTime 20#32 2999999 oneOpen).straps.role = .vector ∧
      (atTime 20#32 2999999 oneOpen).assembler.queue = [e] ∧ e.closed = none ∧
      (atTime 20#32 2999999 oneOpen).clock.time.diff e.instant < 3000000) ∧
    (∃ e, (atTime 20#32 3000000 oneOpen).assembler.queue = [e] ∧ e.closed = none ∧ e.kind = .base ∧
      (atTime 20#32 3000000 oneOpen).accepts = true ∧
      3000000 ≤ (atTime 20#32 3000000 oneOpen).clock.time.diff e.instant) ∧
    (∃ e y o, outgoingHeld.assembler.queue = [e, y] ∧ e.closed = none ∧ y.closed = none ∧ y.instant ≠ e.instant ∧
      3000000 ≤ outgoingHeld.clock.time.diff e.instant ∧ outgoingHeld.store.outgoing = some o ∧ e.edition = o.edition ∧
      y.edition ≠ o.edition) :=
  ⟨⟨_, by decide +kernel, by decide +kernel, rfl, rfl, by decide⟩, ⟨_, rfl, rfl, rfl, by decide +kernel, by decide⟩,
    ⟨_, _, _, rfl, rfl, rfl, by decide, by decide +kernel, rfl, rfl, by decide⟩⟩

/-- R96: the outgoing set goes at the release of the last entry of its edition, and stays while one is queued. -/
theorem test_outgoing :
    (run .holdExpiry outgoingHeld).store.outgoing = none ∧
    (run .holdExpiry (outgoingHeld.withStore { outgoingHeld.store with outgoing := some ⟨defaultSet .vector, 41#16⟩ })).store.outgoing.isSome
      = true := by decide +kernel

theorem witness_InterpolationRoundsTheQuotient :
    let ta : HutTime := ⟨9#32, 9687500⟩
    let tb : HutTime := ⟨10#32, 687500⟩
    (0 ≤ ta.diff ta ∧ ta.diff ta < tb.diff ta) ∧ (0 ≤ (HutTime.mk 10#32 687499).diff ta ∧ (HutTime.mk 10#32 687499).diff ta < tb.diff ta) := by
  decide

theorem witness_CoefficientsAreInterpolated :
    (channelZ.points.map Point.temp).Pairwise (· < ·) ∧ channelZ.points.head? = some ⟨1000, -20, 1500⟩ ∧
      channelZ.points.getLast? = some ⟨2000, -10, -500⟩ ∧ channelZ.points[0]? = some ⟨1000, -20, 1500⟩ ∧
      channelZ.points[0 + 1]? = some ⟨2000, -10, -500⟩ ∧ (1000 : Int) ≤ 1999 ∧ (1999 : Int) < 2000 := by decide

/-- The gap at its bound of 2,500,000 ticks and one tick beyond; values, an INVALID word, a channel. -/
theorem witness_FieldChannelAtClose :
    (setAt 10#32 2500000).capture.diff (setAt 10#32 0).capture = 2500000 ∧
    2500000 < (setAt 10#32 2500001).capture.diff (setAt 10#32 0).capture ∧
    ((setAt 10#32 0).fields.getD 0 .invalid).value = some 1000000 ∧ (setAt 10#32 0).fields.getD 3 .invalid = .invalid ∧
    (defaultSet .vector).channels[0]? = some defaultChannel ∧ defaultChannel.base.pointCount = 0 ∧
    channelZ.base.source = .peer ∧ channelZ.base.pointCount ≠ 0 ∧ querying.query.heldTemps channelZ.base.station = none ∧
    (setAt 10#32 0).temps.getD 0 none = some 1237 ∧ (setAt 10#32 0).temps.getD 1 none = some (-1850) ∧
    1 ≤ channelZ.base.probe ∧ (1237 : Int) ≠ -32768 := by
  decide

/-- The X, Y, Z of the manual's example with its contribution for the entry's instant. -/
def scalarEntry : Entry :=
  ⟨⟨20#32, 0⟩, .base, 1#16, .clear, 1, .set, false, some 5#5, none, some ⟨⟨20#32, 0⟩, some 13000750⟩, none⟩

theorem witness_DeltaFIsTheScalarDifference :
    (entryDelta .vector scalarEntry [some 3000000, some 4000000, some 12000000, none]).isSome = true ∧
    scalarEntry.kind = .base ∧ scalarEntry.contribution = some ⟨scalarEntry.instant, some 13000750⟩ ∧
      (2000000000 : Int).natAbs ≤ 2000000000 ∧ (-2000000000 : Int).natAbs ≤ 2000000000 := by decide +kernel

/-- A detector with threshold `h`, in a state, against reference values 0. -/
def detector (h : Nat) (d : StormDetector) : State :=
  (normal.withAssembler { normal.assembler with storm := { d with reference := some [0, 0, 0] } }).withStore
    { normal.store with active := { normal.store.active with header := { normal.store.active.header with stormThreshold := h } } }

theorem witness_StormDetectorJudgesBaseRecords :
    (∀ h ∈ [0, 5000], ∀ d ∈ [StormDetector.fresh, ⟨false, 1, 0, none⟩, ⟨false, 2, 0, none⟩, ⟨true, 0, 58, none⟩, ⟨true, 0, 59, none⟩],
      (detector h d).assembler.storm.reference = some [0, 0, 0] ∧ (detector h d).store.active.header.stormThreshold = h) ∧
    ([some 0, some (-4999), some 5000, none] : List (Option Int)).length = 4 ∧
    ([some 0, some (-4999), some 5000, none] : List (Option Int)).take (fieldChannels .vector) = [0, -4999, 5000].map some ∧
    ([some 0, some 1, none, none] : List (Option Int)).getD 2 none = none ∧ 2 < fieldChannels .vector ∧
    normal.assembler.storm.reference = none ∧
    (5000 : Nat) ≤ (5000 - 0 : Int).natAbs ∧ (-4999 - 0 : Int).natAbs < 5000 ∧
    divRound 5000 2 ≤ ((2500 - 0 : Int).natAbs : Int) ∧ ((2499 - 0 : Int).natAbs : Int) < divRound 5000 2 := by decide +kernel

/-! ### Section 8 -/

/-- The channel of Figure 7-5 at 10.0 with station 5's probe 1 at 12.37, held since 10.0 less 30 s, and a tick
longer: corrected, and TEMP_STALE only beyond the age limit. -/
theorem test_correctedChannel :
    let close := fun t : HutTime =>
      closeChannel ⟨[⟨5#5, .temp (some ⟨[1237], t⟩)⟩], [], 0#4⟩ ⟨⟨0, 0#5, 30⟩, [channelZ]⟩
        (some ⟨some ⟨⟨109#32, 9687500⟩, [.valid 1500000], []⟩, ⟨⟨110#32, 687500⟩, [.valid 1500400], []⟩⟩) ⟨110#32, 0⟩ 0
    close ⟨80#32, 0⟩ = ⟨some 14251957, false, false, false, false⟩ ∧ (close ⟨79#32, 9999999⟩).stale = true := by decide +kernel

/-- Three TEMP entries at the age limit of 30 s, one tick beyond it, and EMPTY; their stations PRESENT but the last. -/
def subscribed : State :=
  let s := (atTime 100#32 0 normal).withQuery
    ⟨[⟨5#5, .temp (some ⟨[1237], ⟨70#32, 0⟩⟩)⟩, ⟨6#5, .temp (some ⟨[1237], ⟨69#32, 9999999⟩⟩)⟩, ⟨8#5, .temp none⟩, ⟨9#5, .obs none⟩],
      [], 15#4⟩
  (talk [.flagReceived 5#5 [0#8], .flagReceived 6#5 [0#8]] s).withDue { Due.clear with consider := true }

/-- The same with a pending query that carries the tag 15 at the counter; the next free tag is 0. -/
def subscribedAsking : State :=
  subscribed.withQuery { subscribed.query with queries := [⟨15#4, 5#5, 1, ⟨99#32, 0⟩⟩], tagCounter := 15#4 }

theorem witness_AgedSubscriptionsAreAsked :
    (subscribed.running = true ∧ subscribed.due.consider = true ∧ QueryInv subscribed.query) ∧
    (subscribedAsking.running = true ∧ subscribedAsking.due.consider = true ∧ QueryInv subscribedAsking.query ∧
      (run .queryConsideration subscribed).query.queries.map (fun q => (q.index, q.tag)) = [(2, 15#4)] ∧
      (run .queryConsideration subscribedAsking).query.queries.map (fun q => (q.index, q.tag)) = [(1, 15#4), (2, 0#4)] ∧
      (run .queryConsideration subscribedAsking).query.tagCounter = 1#4) := by unfold QueryInv; decide +kernel

theorem witness_QueryTimesOut :
    ∀ n ∈ [2499999, 2500000], (atTime 0#32 n querying).running = true ∧ QueryInv (atTime 0#32 n querying).query ∧
      (⟨6#4, 5#5, 1, ⟨0#32, 0⟩⟩ : PendingQuery) ∈ (atTime 0#32 n querying).query.queries ∧
      (atTime 0#32 n querying).clock.time.diff ⟨0#32, 0⟩ = n := by unfold QueryInv; decide

theorem witness_TemperaturesFillTheSubscription :
    Takes 5#5 querying ∧ (∀ x ∈ ([-32768, -5000, 8000, 32767] : List Int), -32768 ≤ x ∧ x ≤ 32767) ∧
      (∀ q ∈ querying.query.queries, ¬ (q.target = 5#5 ∧ q.tag.toNat = (7#8).toNat)) ∧ QueryInv querying.query ∧
      (⟨6#4, 5#5, 1, ⟨0#32, 0⟩⟩ : PendingQuery) ∈ querying.query.queries ∧
      querying.query.subs[1 - 1]? = some ⟨5#5, .temp none⟩ ∧ (⟨5#5, .temp none⟩ : Subscription).isTemp = true ∧
      (7#8 : Byte).toNat ≤ 7 ∧ (7#8 : Byte) ≠ 0#8 ∧ 4 < (byteAt [5#8] 0).toNat ∧
      (byteAt [4#8] 0).toNat ≠ querying.straps.station.toNat ∧ byteAt [3#8, 6#8, 9#8] 2 ≠ 8#8 := by
  unfold QueryInv; decide

/-- A role S base record of station 8 with F at the least value a slot can hold. -/
def scalarRecord : Record :=
  ⟨.scalar, 8#5, 77#16, .epoch ⟨.base, ⟨20#32, 9999999⟩, 1#16, .clear, 7, ⟨0#4, 0#4, false, false, false, false, false, false⟩,
    [some (-2147483647), none, none, none], none, .complete, 1000000⟩⟩

theorem witness_ScalarObsFillsTheSubscription :
    Takes 8#5 querying ∧ Takes 5#5 querying ∧ scalarRecord.role = .scalar ∧
      (∃ c, scalarRecord.content = .epoch c ∧ c.kind = .base ∧ c.instant.wf = true ∧ c.grade ≤ 7 ∧
        ∀ v, c.slots.getD 0 none = some v → -2147483648 < v ∧ v < 2147483648) ∧
      (∀ e ∈ querying.query.subs, ¬ (e.station = 5#5 ∧ e.isTemp = false)) ∧
      (∃ e ∈ querying.query.subs, e.station = 8#5 ∧ e.isTemp = false) ∧ querying.assembler.queue = [] ∧
      querying.straps.role = .vector ∧ { scalarRecord with role := .vector }.role ≠ .scalar :=
  ⟨by decide, by decide, rfl, ⟨_, rfl, rfl, by decide, by decide, fun v h => by cases h; decide⟩, by decide, by decide, rfl, rfl,
    by decide⟩

/-! ### Section 6 -/

theorem witness_TableReadShowsThePart :
    (Asked (ask [0#8, 0#8, 0#8, 0#8]) (inRole .thermal normal) ∧ (inRole .thermal normal).straps.role = .thermal) ∧
    (Asked (ask (addressBytes (.point 3 8) ++ [1#8])) editing ∧ editing.straps.role = .vector ∧
      PartAddress.inRange editing.straps.role (.point 3 8) = true ∧ PartAddress.inRange editing.straps.role (.point 1 1) = true) ∧
    (∃ p, editing.store.pendingSet = some p ∧ SetShape editing.straps.role p.content) ∧
    (Asked (ask [2#8, 1#8, 9#8, 0#8]) editing ∧ Asked (ask [1#8, 4#8, 0#8, 0#8]) editing ∧ Asked (ask [3#8, 0#8, 0#8, 2#8]) editing) := by
  refine ⟨by decide +kernel, by decide +kernel, ⟨_, rfl, ?_⟩, by decide +kernel⟩
  unfold SetShape; decide +kernel

/-- Point 8 of Z with a temperature, at the other bounds. -/
def writePoint (t : Int) : Ask :=
  ask (beBytes 2 43 ++ [2#8, 3#8, 8#8] ++ beSigned 2 t ++ beSigned 2 (-10000) ++ beSigned 3 1000000)

/-- Figures 6-2 and 6-3: the bounds of the threshold, of the scalar source and of a temperature, and one beyond each. -/
theorem test_ranges :
    ([0, 99, 100, 1000000, 1000001].map fun n =>
        (writeTarget .vector 3#5 ([0#8, 1#8, 0#8, 0#8, 0#8] ++ beBytes 3 n ++ [5#8] ++ beBytes 2 600)).isSome)
      = [true, false, true, true, false] ∧
    ([0#8, 1#8, 3#8, 30#8, 31#8].map fun n =>
        (writeTarget .vector 3#5 ([0#8, 1#8, 0#8, 0#8, 0#8] ++ beBytes 3 0 ++ [n] ++ beBytes 2 1)).isSome)
      = [true, true, false, true, false] ∧
    ([-5001, -5000, 8000, 8001].map fun t =>
        (writeTarget .scalar 3#5 ([0#8, 1#8, 2#8, 1#8, 8#8] ++ beSigned 2 t ++ beSigned 2 0 ++ beSigned 3 0)).isSome)
      = [false, true, true, false] := by decide +kernel

theorem witness_TableWriteIsJudgedInOrder :
    (SetShape .vector (defaultSet .vector) ∧
      (writeTarget .vector 3#5 ([0#8, 1#8, 1#8, 3#8, 0#8] ++ beBytes 3 1 ++ [SourceKind.peer.code, 30#8, 4#8, 8#8])).isSome = true ∧
      PartAddress.inRange .vector (.point 3 1) = true) ∧
    (Asked (writePoint 8000) editing ∧ writeLengthOk (writePoint 8000).operands = true ∧ editing.store.pendingSet.map PendingSet.edition = some 43#16 ∧
        editing.store.pendingSet.map PendingSet.scheduled = some false ∧
        (writeTarget editing.straps.role editing.straps.station (writePoint 8000).operands).isSome = true ∧
        Asked (writePoint 8000) (talk [commitOf 43] editing) ∧
        (talk [commitOf 43] editing).store.pendingSet.map PendingSet.scheduled = some true ∧
        Asked (writePoint 8000) (inRole .clock normal)) ∧
    (Asked (writePoint 8001) editing ∧ writeLengthOk (writePoint 8001).operands = true ∧
      writeTarget editing.straps.role editing.straps.station (writePoint 8001).operands = none) := by
  unfold SetShape; decide +kernel

/-- A pending set whose channel 1 uses two points of equal temperature. -/
def disordered : State :=
  talk [.tableWrite (ask (beBytes 2 41 ++ [1#8, 1#8, 0#8] ++ beBytes 3 65536 ++ [0#8, 0#8, 0#8, 2#8]))] edition41

theorem witness_TableCommitAndDiscard :
    (∀ s ∈ [editing, disordered, edition41, talk [commitOf 43] editing, inRole .thermal normal],
      Asked (ask (beBytes 2 43)) s ∧ Asked (ask []) s) ∧
    (∃ p, editing.store.pendingSet = some p ∧ p.scheduled = false ∧ p.edition = 43#16 ∧ PointsRise p.content) ∧
    (∃ p, disordered.store.pendingSet = some p ∧ p.scheduled = false ∧ p.edition = 42#16 ∧ ¬ PointsRise p.content) ∧
    edition41.store.pendingSet = none ∧
    (talk [commitOf 43] editing).store.pendingSet.map PendingSet.scheduled = some true := by
  refine ⟨by decide +kernel, ⟨_, rfl, rfl, rfl, ?_⟩, ⟨_, rfl, rfl, rfl, ?_⟩, rfl, by decide +kernel⟩ <;>
    · unfold PointsRise; decide +kernel

/-- A promotion to threshold 0 due, with the storm detector and the own STORM as given. -/
def stormEnding (storm : Bool) : State :=
  let s := (talk [writeZ, commitOf 42] edition41).withDue { Due.clear with promote := true }
  (s.withAssembler { s.assembler with storm := ⟨storm, 1, 2, none⟩ }).withPresence
    { s.presence with own := ⟨storm, false, false, false⟩, wireOr := ⟨storm, false, false, false⟩ }

/-- A scheduled set, due; with the threshold 5,000 that writeHeader gives, and with threshold 0, the detector asserted or not. -/
theorem witness_PromotionChangesTheActiveSet :
    (∃ p, ((talk [commitOf 43] editing).withDue { Due.clear with promote := true }).store.pendingSet = some p ∧
      p.scheduled = true ∧ p.content.header.stormThreshold = 5000) ∧
    (∃ p, ((talk [writeZ, commitOf 42] edition41).withDue { Due.clear with promote := true }).store.pendingSet = some p ∧
      p.scheduled = true ∧ p.content.header.stormThreshold = 0) ∧
    ((talk [commitOf 43] editing).withDue { Due.clear with promote := true }).running = true ∧
    (∃ p, (stormEnding true).store.pendingSet = some p ∧ p.scheduled = true ∧ p.content.header.stormThreshold = 0 ∧
      (stormEnding true).running = true ∧ (stormEnding true).assembler.storm.asserted = true ∧
      (stormEnding false).assembler.storm.asserted = false) :=
  ⟨⟨_, rfl, rfl, rfl⟩, ⟨_, rfl, rfl, rfl⟩, by decide +kernel, ⟨_, rfl, rfl, rfl, by decide +kernel, rfl, rfl⟩⟩

/-- R119, R29, R35: a promotion to threshold 0 takes the own STORM back, with the wire OR and a FLAG. -/
theorem test_stormEnding :
    let t := run .promotion (stormEnding true)
    t.presence.own = .clear ∧ t.presence.wireOr = .clear ∧ t.line.flagSlot = some .clear ∧
      (run .promotion (stormEnding false)).line.flagSlot = none := by decide +kernel

/-! ### Sections 9 and 10 -/

/-- A full ring and one a record short of full; a written count at its limit and below it. -/
theorem witness_RingWriteIsOneEvent :
    ((writes 10 ringAtWrap).ring.producer - (writes 10 ringAtWrap).ring.consumer).toNat = 1024 ∧
    ((writes 9 ringAtWrap).ring.producer - (writes 9 ringAtWrap).ring.consumer).toNat = 1023 ∧
    (writes 9 ringAtWrap).ring.written = 1024 ∧ twoRecords.ring.written < 1024 ∧
    (1#16 : BitVec 16).toNat % 1024 ≠ (0#16 : BitVec 16).toNat % 1024 := by decide +kernel

/-- The distances 0, 1, 1,014 (the unconsumed count), 1,015, 1,024 and 1,025 behind P = 65,534; a full ring whose
C is s; and s just lapped over, 1,025 behind P. -/
theorem witness_ConsumeJudgesTheDistance :
    (∀ k ∈ [0, 1, 1014, 1015, 1024, 1025], Asked (ask (beBytes 2 (65534 - k))) ringAtWrap ∧
      (ringAtWrap.ring.producer - BitVec.ofNat 16 (65534 - k)).toNat = k ∧
      (BitVec.ofNat 16 (65534 - k)).toNat = 65534 - k) ∧
    (ringAtWrap.ring.producer - ringAtWrap.ring.consumer).toNat = 1014 ∧ 64509#16 ∉ ringAtWrap.ring.lappedNow ∧
    (let f := writes 10 ringAtWrap
     Asked (ask (beBytes 2 64520)) f ∧ f.ring.consumer = 64520#16 ∧ (f.ring.producer - f.ring.consumer).toNat = 1024) ∧
    (let w := writes 11 ringAtWrap
     Asked (ask (beBytes 2 64520)) w ∧ 64520#16 ∈ w.ring.lappedNow ∧ (w.ring.producer - 64520#16).toNat = 1025 ∧
      (w.ring.producer - w.ring.consumer).toNat = 1024) := by decide +kernel

/-- Station 3 with two records and `n` replies waiting. -/
def waiting (n : Nat) : State :=
  twoRecords.withLine { normal.line with replyQueue := List.replicate n ⟨30#5, 1#8, 2#8, .done, .empty⟩ }

theorem witness_ReadWindowSendsTheRecords :
    (∀ n ∈ [(0#8 : Byte), 1#8, 8#8, 9#8], Asked (ask (beBytes 2 0 ++ [n])) twoRecords) ∧ RingInv twoRecords.ring ∧
    (Asked (ask (beBytes 2 0 ++ [2#8])) (waiting 7) ∧ 8 - (waiting 7).line.replyQueue.length < min 2 2) ∧
    twoRecords.ring.written = 2 ∧ (∀ p ∈ [(0, 2), (1, 1), (2, 0), (65535, 3), (64514, 1024), (64513, 1025)],
      (twoRecords.ring.producer - BitVec.ofNat 16 p.1).toNat = p.2) ∧ 8 - (waiting 6).line.replyQueue.length = 2 := by
  refine ⟨by decide +kernel, ⟨⟨by decide, by decide⟩, by decide, by decide, ?_⟩, by decide +kernel, by decide, by decide +kernel,
    by decide⟩
  intro q h1 h2
  have hp : twoRecords.ring.producer = 2#16 := by decide
  have hw : twoRecords.ring.written = 2 := by decide
  rw [hw] at h2
  simp only [Ring.behind, hp] at h1 h2
  have hq : q = 0#16 ∨ q = 1#16 := by bv_omega
  rcases hq with rfl | rfl <;> decide +kernel

theorem witness_StatusTempNowAndUnknown :
    AskedAll (ask []) normal ∧ AskedAll ⟨5#5, 0#8, 15#8, []⟩ normal ∧ Asked (ask []) (lineAt .restrained 96 .idle 160) ∧
      (ask []).operands = [] ∧ ¬ ((0#8 : Byte) ≠ 0#8) ∧ 11 < (12#8 : Byte).toNat := by decide

theorem witness_FenceAndClearConditions :
    (AskedAll (ask []) arbiterStart ∧ (∃ f, .fence f ∈ arbiterStart.line.obsQueue)) ∧
    (AskedAll (ask []) normal ∧ (∀ f, .fence f ∉ normal.line.obsQueue)) ∧
    (Asked (ask [31#8]) normal ∧ (31#8 : Byte).toNat < 32 ∧ Asked (ask [32#8]) normal ∧ 32 ≤ (32#8 : Byte).toNat) :=
  ⟨⟨by decide, ⟨_, .head _⟩⟩, ⟨by decide, fun f h => by cases h⟩, by decide⟩

/-- Each reason to drop an ASK alone, another target, short payloads, and wrong lengths. -/
theorem witness_AskIsDroppedOrJudged :
    (TakesAsk 31#5 normal ∧ ¬ Numbered 31#5) ∧ (TakesAsk 5#5 normal ∧ 15 < (16#8 : Byte).toNat) ∧
    (TakesAsk 5#5 (idle State.reset) ∧ (idle State.reset).line.standing = .joining) ∧
    State.reset.takesAsk 5#5 = false ∧ markInFlight.takesAsk 3#5 = false ∧ Asked (ask []) (run (.sendEnd true) fullReplies) ∧
    (TakesAsk 5#5 (waiting 8) ∧ 8 ≤ (waiting 8).line.replyQueue.length) ∧ Asked (ask []) markInFlight ∧
    (TakesAsk 5#5 normal ∧ (7#8 : Byte).toNat ≠ normal.straps.station.toNat ∧ (7#8 : Byte) ≠ 0#8) ∧
    (Asked (ask [0#8, 1#8, 2#8, 9#8, 9#8]) normal ∧ AskedAll (ask [0#8, 1#8, 2#8, 9#8, 9#8]) normal ∧
      writeLengthOk [0#8, 1#8, 2#8, 9#8, 9#8] = false) ∧ ([0#8, 0#8] : List Byte).length < 3 := by decide +kernel

/-! ### Section 11 -/

/-- The supply has risen 100 ms ago. -/
def recovered : State :=
  let s := runAll [.supplyFall, .supplyRecovery .rises] normal
  s.withRestart { s.restart with supplyTicks := 1000000 }

theorem witness_RestartIsEnteredAndCompleted :
    (normal.restart.resetLow = false ∧ (run .resetAsserted normal).restart.resetLow = true ∧
      (run .resetAsserted normal).restart.supplyHold = false) ∧
    (runAll [.resetAsserted, .supplyFall] normal).restart.resetLow = true ∧
    (runAll [.resetAsserted, .supplyFall] normal).restart.supplyHold = true ∧
    (recovered.restart.supplyHold = true ∧ recovered.restart.supplyLow = false ∧
      1000000 ≤ recovered.restart.supplyTicks ∧ recovered.restart.resetLow = false) ∧
    ((run .resetAsserted recovered).restart.resetLow = true ∧ (run .resetAsserted recovered).restart.supplyHold = true) ∧
    ((run .supplyFall normal).restart.supplyLow = true ∧ (run .supplyFall normal).restart.supplyTicks < 1000000) ∧ normal.line.activity = .idle ∧
    (lineAt .normal 0 (.receiving none) 0).line.activity = .receiving none ∧
    (∃ sd, markInFlight.line.activity = .sending sd) :=
  ⟨by decide +kernel, by decide +kernel, by decide +kernel, by decide +kernel, by decide +kernel, by decide +kernel,
    rfl, rfl, ⟨_, rfl⟩⟩

theorem witness_RestartRequestRestartsTheNode :
    Asked (ask [0#8]) normal ∧ Asked (ask [1#8]) normal ∧ Asked (ask [1#8]) markInFlight := by decide +kernel

/-- A warm node, a cold one, and a set that names the own station. -/
theorem witness_RestartKeepsWhatItsKindKeeps :
    pins3.station ≠ 0#5 ∧ pins3.station ≠ 31#5 ∧ normal.ring.marker = true ∧ (run .supplyFall normal).ring.marker = false ∧
      normal.store.loadedRole = .vector ∧ normal.store.active.names pins3.station = false ∧
      (CorrectionSet.mk ⟨0, 3#5, 30⟩ []).names pins3.station = true := by decide +kernel

theorem witness_StrapFaultIsInert :
    (⟨31#5, 0#2, 3#2⟩ : StrapPins).station = 31#5 ∧ (⟨0#5, 0#2, 3#2⟩ : StrapPins).station = 0#5 ∧
      (runAll [.resetAsserted, .resetReleased ⟨0#5, 0#2, 3#2⟩] normal).line.standing = .strapFault ∧
      (run .resetAsserted normal).held = true ∧ (run .supplyFall normal).held = true := by decide +kernel

/-- R165: while the part is held a due MARK is not offered and no packet is taken; the hut clock counts. -/
theorem test_held :
    let s := run .resetAsserted (normal.withDue { Due.clear with mark := true })
    run .markOffer s = s ∧ run .ownNumberPacket (idle s) = idle s ∧ (run .oscillatorEdge s).clock.time = ⟨0#32, 1⟩ := by decide +kernel

end Sys2Proof.Tests
end

