-- ==== Sys2Proof/Proofs/TrimmedMean.lean ====
section
/-! The correction of a round end (R62): the mean, rounded to nearest, of the candidates that are left once one
greatest and one least are set aside. -/

namespace Sys2Proof.TrimmedMean

open Sys2Proof.Machine

/-! ## The rounded quotient (R1) -/

/-- R1 without absolute values: `n` is at most half of `d` away from the rounded quotient times `d`. -/
theorem divRound_near (n : Int) {d : Int} (hd : 0 < d) :
    2 * (divRound n d * d) ≤ 2 * n + d ∧ 2 * n ≤ 2 * (divRound n d * d) + d := by
  have near (m : Int) : 2 * ((2 * m + d) / (2 * d) * d) ≤ 2 * m + d ∧
      2 * m ≤ 2 * ((2 * m + d) / (2 * d) * d) + d := by
    have hlow := Int.ediv_mul_le (2 * m + d) (b := 2 * d) (by omega)
    have hhigh := Int.lt_ediv_add_one_mul_self (2 * m + d) (b := 2 * d) (by omega)
    constructor <;> linarith
  unfold divRound
  split
  · exact near n
  · obtain ⟨hlow, hhigh⟩ := near (-n)
    constructor <;> linarith

/-- Rounding does not carry a quotient below a whole number that bounds it from below. -/
theorem le_divRound {n d a : Int} (hd : 0 < d) (h : a * d ≤ n) : a ≤ divRound n d := by
  obtain ⟨-, hhigh⟩ := divRound_near n hd
  have hlt : a * d < (divRound n d + 1) * d := by linarith
  exact Int.lt_add_one_iff.mp (lt_of_mul_lt_mul_right hlt hd.le)

/-- Nor above one that bounds it from above. -/
theorem divRound_le {n d a : Int} (hd : 0 < d) (h : n ≤ a * d) : divRound n d ≤ a := by
  obtain ⟨hlow, -⟩ := divRound_near n hd
  have hlt : divRound n d * d < (a + 1) * d := by linarith
  exact Int.lt_add_one_iff.mp (lt_of_mul_lt_mul_right hlt hd.le)

/-- The rounded mean of a list lies within every range that holds its members. -/
theorem divRound_mean_mem_range {l : List Int} {lo hi : Int} (hne : l ≠ [])
    (hrange : ∀ x ∈ l, lo ≤ x ∧ x ≤ hi) :
    lo ≤ divRound l.sum l.length ∧ divRound l.sum l.length ≤ hi := by
  have hpos : (0 : Int) < l.length := by exact_mod_cast List.length_pos_of_ne_nil hne
  have hlow := List.card_nsmul_le_sum l lo fun x hx => (hrange x hx).1
  have hhigh := List.sum_le_card_nsmul l hi fun x hx => (hrange x hx).2
  rw [nsmul_eq_mul, mul_comm] at hlow hhigh
  exact ⟨le_divRound hpos hlow, divRound_le hpos hhigh⟩

/-! ## The greatest and the least candidate -/

@[simp] theorem greatest_cons (x y : Int) (ys : List Int) : greatest x (y :: ys) = max y (greatest x ys) := rfl

@[simp] theorem least_cons (x y : Int) (ys : List Int) : least x (y :: ys) = min y (least x ys) := rfl

theorem greatest_mem (x : Int) (l : List Int) : greatest x l ∈ x :: l := by
  induction l with
  | nil => simp [greatest]
  | cons y ys ih =>
    rw [greatest_cons]
    rcases max_choice y (greatest x ys) with h | h <;> rw [h]
    · simp
    · simp only [List.mem_cons] at ih ⊢; tauto

theorem least_mem (x : Int) (l : List Int) : least x l ∈ x :: l := by
  induction l with
  | nil => simp [least]
  | cons y ys ih =>
    rw [least_cons]
    rcases min_choice y (least x ys) with h | h <;> rw [h]
    · simp
    · simp only [List.mem_cons] at ih ⊢; tauto

theorem le_greatest {x y : Int} {l : List Int} (hy : y ∈ x :: l) : y ≤ greatest x l := by
  induction l with
  | nil => simp_all [greatest]
  | cons z zs ih =>
    simp only [List.mem_cons] at ih hy
    rw [greatest_cons, le_max_iff]
    rcases hy with h | h | h
    · exact .inr (ih (.inl h))
    · exact .inl h.le
    · exact .inr (ih (.inr h))

theorem least_le {x y : Int} {l : List Int} (hy : y ∈ x :: l) : least x l ≤ y := by
  induction l with
  | nil => simp_all [least]
  | cons z zs ih =>
    simp only [List.mem_cons] at ih hy
    rw [least_cons, min_le_iff]
    rcases hy with h | h | h
    · exact .inr (ih (.inl h))
    · exact .inl h.ge
    · exact .inr (ih (.inr h))

/-! ## The two cases of the correction (R62) -/

theorem correction_of_four_le {x : Int} {rest : List Int} (h : 4 ≤ (x :: rest).length) :
    correction (x :: rest) = divRound ((x :: rest).sum - greatest x rest - least x rest)
      (((x :: rest).length : Int) - 2) :=
  if_pos h

theorem correction_of_lt_four {x : Int} {rest : List Int} (h : (x :: rest).length < 4) :
    correction (x :: rest) = divRound (x :: rest).sum ((x :: rest).length : Int) :=
  if_neg (Nat.not_le.mpr h)

/-! ## Setting one greatest and one least aside -/

/-- With two members or more, a least one is left when a greatest one is taken out: were the two the same number,
every member would be that number. -/
theorem least_mem_erase_greatest {l : List Int} {lo hi : Int} (hlen : 2 ≤ l.length) (hhi : hi ∈ l) (hlo : lo ∈ l)
    (hrange : ∀ x ∈ l, lo ≤ x ∧ x ≤ hi) : lo ∈ l.erase hi := by
  by_cases heq : lo = hi
  · have hpos : 0 < (l.erase hi).length := by rw [List.length_erase_of_mem hhi]; omega
    obtain ⟨y, hy⟩ := List.exists_mem_of_length_pos hpos
    have hylo : lo = y := by have := hrange y (List.mem_of_mem_erase hy); omega
    exact hylo ▸ hy
  · exact (List.mem_erase_of_ne heq).mpr hlo

/-- The rounded mean without one greatest and one least member lies between them. -/
theorem divRound_trimmed_mem_range {l : List Int} {lo hi : Int} (hlen : 3 ≤ l.length) (hhi : hi ∈ l) (hlo : lo ∈ l)
    (hrange : ∀ x ∈ l, lo ≤ x ∧ x ≤ hi) :
    lo ≤ divRound (l.sum - hi - lo) ((l.length : Int) - 2) ∧
      divRound (l.sum - hi - lo) ((l.length : Int) - 2) ≤ hi := by
  have hlo' := least_mem_erase_greatest (by omega) hhi hlo hrange
  have hsum : ((l.erase hi).erase lo).sum = l.sum - hi - lo := by
    have hwithoutHi := List.sum_erase hhi
    have hwithoutLo := List.sum_erase hlo'
    omega
  have hlength : (((l.erase hi).erase lo).length : Int) = (l.length : Int) - 2 := by
    rw [List.length_erase_of_mem hlo', List.length_erase_of_mem hhi]; omega
  have hne : (l.erase hi).erase lo ≠ [] := by
    intro h
    rw [h, List.length_nil] at hlength
    omega
  rw [← hsum, ← hlength]
  exact divRound_mean_mem_range hne fun x hx => hrange x (List.mem_of_mem_erase (List.mem_of_mem_erase hx))

/-- The correction lies from the least to the greatest candidate. -/
theorem correction_mem_range (x : Int) (rest : List Int) :
    least x rest ≤ correction (x :: rest) ∧ correction (x :: rest) ≤ greatest x rest := by
  have hrange : ∀ y ∈ x :: rest, least x rest ≤ y ∧ y ≤ greatest x rest := fun y hy => ⟨least_le hy, le_greatest hy⟩
  rcases Nat.lt_or_ge (x :: rest).length 4 with hfew | hmany
  · rw [correction_of_lt_four hfew]
    exact divRound_mean_mem_range (List.cons_ne_nil x rest) hrange
  · rw [correction_of_four_le hmany]
    exact divRound_trimmed_mem_range (by omega) (greatest_mem x rest) (least_mem x rest) hrange

/-- Settles O29: the greatest and the least candidate of the definition are the two that are set aside, and a mean
rounded to nearest stays within the whole numbers that bound its members. -/
theorem correctionIsTheTrimmedMean : Obligations.CorrectionIsTheTrimmedMean := by
  unfold Obligations.CorrectionIsTheTrimmedMean
  intro l hne
  obtain ⟨x, rest, rfl⟩ := List.exists_cons_of_ne_nil hne
  exact ⟨greatest x rest, least x rest, greatest_mem x rest, least_mem x rest,
    fun y hy => ⟨least_le hy, le_greatest hy⟩,
    correction_of_four_le, correction_of_lt_four, correction_mem_range x rest⟩

end Sys2Proof.TrimmedMean
end

/-! Interpolation at the close of an entry: of a field count between the sets of a bracket (R110), and of a
coefficient between two points of a channel (R113). -/

namespace Sys2Proof.Interpolation

open Sys2Proof.Machine
open Sys2Proof.TrimmedMean (divRound_near le_divRound divRound_le)

/-! ## The rounded quotient (R1) -/

theorem divRound_zero {d : Int} (hd : 0 < d) : divRound 0 d = 0 := by
  have hle : divRound 0 d ≤ 0 := divRound_le hd (by omega)
  have hge : 0 ≤ divRound 0 d := le_divRound hd (by omega)
  omega

/-- The upper bound is strict from 0 up: a half there goes to the greater quotient. -/
theorem two_mul_lt_divRound_mul_add {n d : Int} (hd : 0 < d) (hn : 0 ≤ n) : 2 * n < 2 * (divRound n d * d) + d := by
  have hhigh := Int.lt_ediv_add_one_mul_self (2 * n + d) (b := 2 * d) (by omega)
  rw [divRound, if_pos hn]
  linarith

/-- The lower bound is strict below 0: a half there goes to the lesser quotient. -/
theorem divRound_mul_lt_two_mul_add {n d : Int} (hd : 0 < d) (hn : n < 0) : 2 * (divRound n d * d) < 2 * n + d := by
  have hhigh := Int.lt_ediv_add_one_mul_self (2 * -n + d) (b := 2 * d) (by omega)
  rw [divRound, if_neg (by omega)]
  linarith

/-- R1: the rounded quotient times `d` is at most half of `d` away from `n`. -/
theorem divRound_natAbs_le (n : Int) {d : Int} (hd : 0 < d) :
    2 * (n - divRound n d * d).natAbs ≤ d.natAbs := by
  have hnear := divRound_near n hd
  omega

/-- R1: a half is rounded away from zero. -/
theorem natAbs_lt_of_divRound_half {n d : Int} (hd : 0 < d)
    (hhalf : 2 * (n - divRound n d * d).natAbs = d.natAbs) : n.natAbs < (divRound n d * d).natAbs := by
  rcases lt_or_ge n 0 with hn | hn
  · have hstrict := divRound_mul_lt_two_mul_add hd hn
    omega
  · have hstrict := two_mul_lt_divRound_mul_add hd hn
    omega

/-! ## The interpolated count (R110) -/

/-- A share of a difference, between none and all of it, lies between 0 and the difference. -/
theorem divRound_share_mem_range (c : Int) {x g : Int} (hx : 0 ≤ x) (hxg : x < g) :
    min 0 c ≤ divRound (c * x) g ∧ divRound (c * x) g ≤ max 0 c := by
  have hg : 0 < g := by omega
  rcases Int.le_total 0 c with hc | hc
  · rw [min_eq_left hc, max_eq_right hc]
    exact ⟨le_divRound hg (by rw [zero_mul]; exact mul_nonneg hc hx),
      divRound_le hg (mul_le_mul_of_nonneg_left hxg.le hc)⟩
  · rw [min_eq_right hc, max_eq_left hc]
    exact ⟨le_divRound hg (mul_le_mul_of_nonpos_left hxg.le hc),
      divRound_le hg (by rw [zero_mul]; exact mul_nonpos_of_nonpos_of_nonneg hc hx)⟩

theorem interpolate_mem_range (va vb : Int) {ta tb e : HutTime} (hx : 0 ≤ e.diff ta) (hxg : e.diff ta < tb.diff ta) :
    min va vb ≤ interpolate va vb ta tb e ∧ interpolate va vb ta tb e ≤ max va vb := by
  have hshare := divRound_share_mem_range (vb - va) hx hxg
  unfold interpolate
  omega

theorem interpolate_at_first (va vb : Int) {ta tb e : HutTime} (hg : 0 < tb.diff ta) (hx : e.diff ta = 0) :
    interpolate va vb ta tb e = va := by
  rw [interpolate, hx, mul_zero, divRound_zero hg, add_zero]

/-- Settles O38: the quotient is the rounded share of the difference, and a share of a difference does not pass it. -/
theorem interpolationRoundsTheQuotient : Obligations.InterpolationRoundsTheQuotient := by
  unfold Obligations.InterpolationRoundsTheQuotient
  intro va vb ta tb e hx hxg
  have hg : 0 < tb.diff ta := by omega
  obtain ⟨hmin, hmax⟩ := interpolate_mem_range va vb hx hxg
  exact ⟨⟨_, rfl, divRound_natAbs_le _ hg, natAbs_lt_of_divRound_half hg⟩, hmin, hmax, interpolate_at_first va vb hg⟩

/-! ## The coefficients (R113) -/

section Coefficient

variable {sel : Point → Int} {t : Int}

theorem coefficient_of_le_first {p : Point} {rest : List Point} (h : t ≤ p.temp) :
    coefficient sel t (p :: rest) = sel p := by
  cases rest with
  | nil => rfl
  | cons q rest => exact if_pos h

/-- At the first point's own temperature the quotient is 0, so the formula between two points holds there too. -/
theorem coefficient_of_mem_first {p q : Point} {rest : List Point} (hp : p.temp ≤ t) (hq : t < q.temp) :
    coefficient sel t (p :: q :: rest) =
      sel p + divRound ((sel q - sel p) * (t - p.temp)) (q.temp - p.temp) := by
  rcases hp.lt_or_eq with hlt | rfl
  · rw [coefficient, if_neg (by omega), if_pos hq]
  · rw [coefficient_of_le_first le_rfl, sub_self, mul_zero, divRound_zero (by omega), add_zero]

/-- From the second point's temperature on the first point is of no account. -/
theorem coefficient_of_second_le {p q : Point} {rest : List Point} (hpq : p.temp < q.temp) (hq : q.temp ≤ t) :
    coefficient sel t (p :: q :: rest) = coefficient sel t (q :: rest) := by
  rw [coefficient, if_neg (by omega), if_neg (by omega)]

/-- The first point is the coldest one. -/
theorem temp_first_le {p x : Point} {rest : List Point} (hrise : ((p :: rest).map Point.temp).Pairwise (· < ·))
    (hx : x ∈ p :: rest) : p.temp ≤ x.temp := by
  rw [List.map_cons, List.pairwise_cons] at hrise
  rcases List.mem_cons.mp hx with rfl | hmem
  · exact le_rfl
  · exact (hrise.1 _ (List.mem_map_of_mem hmem)).le

theorem coefficient_of_last_le {pts : List Point} (hrise : (pts.map Point.temp).Pairwise (· < ·)) {p : Point}
    (hlast : pts.getLast? = some p) (hp : p.temp ≤ t) : coefficient sel t pts = sel p := by
  induction pts with
  | nil => cases hlast
  | cons a rest ih =>
    cases rest with
    | nil => cases hlast; rfl
    | cons b rest =>
      have hrest : ((b :: rest).map Point.temp).Pairwise (· < ·) := hrise.of_cons
      rw [List.getLast?_cons_cons] at hlast
      have hab : a.temp < b.temp := List.rel_of_pairwise_cons hrise (.head _)
      have hb : b.temp ≤ p.temp := temp_first_le hrest (List.mem_of_getLast? hlast)
      rw [coefficient_of_second_le hab (hb.trans hp)]
      exact ih hrest hlast

theorem coefficient_of_between {pts : List Point} (hrise : (pts.map Point.temp).Pairwise (· < ·)) {k : Nat}
    {p q : Point} (hk : pts[k]? = some p) (hk' : pts[k + 1]? = some q) (hp : p.temp ≤ t) (hq : t < q.temp) :
    coefficient sel t pts = sel p + divRound ((sel q - sel p) * (t - p.temp)) (q.temp - p.temp) := by
  induction k generalizing pts with
  | zero =>
    match pts, hk, hk' with
    | _ :: _ :: _, rfl, rfl => exact coefficient_of_mem_first hp hq
  | succ k ih =>
    match pts, hk, hk' with
    | a :: b :: rest, hk, hk' =>
      have hrest : ((b :: rest).map Point.temp).Pairwise (· < ·) := hrise.of_cons
      have hab : a.temp < b.temp := List.rel_of_pairwise_cons hrise (.head _)
      have hb : b.temp ≤ p.temp := temp_first_le hrest (List.mem_of_getElem? hk)
      rw [coefficient_of_second_le hab (hb.trans hp)]
      exact ih hrest hk hk'

end Coefficient

/-- Settles O39: the points are walked from the coldest on, and each one is dropped once the next is not above `t`. -/
theorem coefficientsAreInterpolated : Obligations.CoefficientsAreInterpolated := by
  unfold Obligations.CoefficientsAreInterpolated
  intro sel t pts hrise
  refine ⟨fun p hhead ht => ?_, fun p => coefficient_of_last_le hrise, fun k p q => coefficient_of_between hrise⟩
  obtain ⟨rest, rfl⟩ := List.head?_eq_some_iff.mp hhead
  exact coefficient_of_le_first ht

end Sys2Proof.Interpolation

/-! deltaF (R116): the nearest root of a sum of squares, the conditions under which an entry has a deltaF, and its
bounds. -/

namespace Sys2Proof.ScalarDifference

open Sys2Proof.Machine

/-! ## The root rounded to nearest -/

/-- The search's invariant: the root is not below `acc` and is below `acc + 2 ^ k`. Each bit halves that range, so the
search ends on the root. -/
theorem isqrtFrom_eq_sqrt {k n acc : Nat} (hlow : acc * acc ≤ n) (hhigh : n < (acc + 2 ^ k) * (acc + 2 ^ k)) :
    isqrtFrom k n acc = n.sqrt := by
  induction k generalizing acc with
  | zero => exact Nat.eq_sqrt.mpr ⟨hlow, hhigh⟩
  | succ k ih =>
    have hsplit : acc + 2 ^ (k + 1) = acc + 2 ^ k + 2 ^ k := by rw [pow_succ]; omega
    rw [isqrtFrom]
    split
    · next hbit => exact ih hbit (hsplit ▸ hhigh)
    · next hbit => exact ih hlow (Nat.lt_of_not_le hbit)

/-- Below 2^66 the root has 33 bits at most, which are those the search tries. -/
theorem isqrt_eq_sqrt {n : Nat} (hn : n < 2 ^ 66) : isqrt n = n.sqrt :=
  isqrtFrom_eq_sqrt (Nat.zero_le n) (by omega)

/-- The root lies less than a half above the nearest root; written in the squares of the doubles. -/
theorem lt_nearestRoot_sq {n : Nat} (hn : n < 2 ^ 66) :
    4 * (n : Int) < (2 * (nearestRoot n : Int) + 1) * (2 * (nearestRoot n : Int) + 1) := by
  have hlow : n.sqrt * n.sqrt ≤ n := n.sqrt_le
  have hhigh : n < (n.sqrt + 1) * (n.sqrt + 1) := n.lt_succ_sqrt
  rw [nearestRoot, isqrt_eq_sqrt hn]
  split
  · push_cast; nlinarith
  · have hdown : n ≤ n.sqrt * n.sqrt + n.sqrt := by omega
    nlinarith

/-- The root lies less than a half below the nearest root, unless that is 0. -/
theorem nearestRoot_sq_lt {n : Nat} (hn : n < 2 ^ 66) (hr : nearestRoot n ≠ 0) :
    (2 * (nearestRoot n : Int) - 1) * (2 * (nearestRoot n : Int) - 1) < 4 * (n : Int) := by
  have hlow : n.sqrt * n.sqrt ≤ n := n.sqrt_le
  rw [nearestRoot, isqrt_eq_sqrt hn] at hr ⊢
  split at hr
  · next hup =>
    have hup' : n.sqrt * n.sqrt + n.sqrt + 1 ≤ n := by omega
    rw [if_pos hup]; push_cast; nlinarith
  · next hup =>
    have hpos : 1 ≤ n.sqrt := Nat.one_le_iff_ne_zero.mpr hr
    rw [if_neg hup]; nlinarith

/-! ## The sum of squares -/

theorem mul_self_le_of_natAbs_le {x : Int} {b : Nat} (h : x.natAbs ≤ b) : x * x ≤ b * b := by
  rw [← Int.natAbs_mul_self' x]
  exact_mod_cast Nat.mul_le_mul h h

/-- Three field values within R114's bound have a sum of squares that the root's search covers. -/
theorem sumSquares_toNat_lt {x y z : Int} (hx : x.natAbs ≤ 2000000000) (hy : y.natAbs ≤ 2000000000)
    (hz : z.natAbs ≤ 2000000000) : (x * x + y * y + z * z).toNat < 2 ^ 66 := by
  have hx2 := mul_self_le_of_natAbs_le hx
  have hy2 := mul_self_le_of_natAbs_le hy
  have hz2 := mul_self_le_of_natAbs_le hz
  omega

theorem sumSquares_toNat_cast (x y z : Int) :
    ((x * x + y * y + z * z).toNat : Int) = x * x + y * y + z * z :=
  Int.toNat_of_nonneg (by nlinarith [mul_self_nonneg x, mul_self_nonneg y, mul_self_nonneg z])

/-! ## deltaF -/

/-- R116: the difference is held within the limit, and marked exactly at or beyond it. -/
theorem deltaOf_eq (fs x y z : Int) :
    deltaOf fs x y z =
      (max (-32767) (min 32767 (fs - (nearestRoot (x * x + y * y + z * z).toNat : Int))),
        decide (32767 ≤ fs - (nearestRoot (x * x + y * y + z * z).toNat : Int)) ||
          decide (fs - (nearestRoot (x * x + y * y + z * z).toNat : Int) ≤ -32767)) := by
  unfold deltaOf deltaLimit
  generalize fs - (nearestRoot (x * x + y * y + z * z).toNat : Int) = d
  dsimp only
  split
  · next hup => simp only [hup, decide_true, Bool.true_or, Prod.mk.injEq, and_true]; omega
  · next hup =>
    split
    · next hdown => simp only [hdown, decide_true, Bool.or_true, Prod.mk.injEq, and_true]; omega
    · next hdown => simp only [hup, hdown, decide_false, Bool.or_false, Prod.mk.injEq, and_true]; omega

/-- R116: the conditions under which an entry has a deltaF, and what it is then. -/
theorem entryDelta_eq_some_iff {role : Role} {e : Entry} {slots : List (Option Int)} {out : Int × Bool} :
    entryDelta role e slots = some out ↔
      role = .vector ∧ e.kind = .base ∧ ∃ fs x y z, e.contribution = some ⟨e.instant, some fs⟩ ∧
        slots.getD 0 none = some x ∧ slots.getD 1 none = some y ∧ slots.getD 2 none = some z ∧
        deltaOf fs x y z = out := by
  constructor
  · intro h
    unfold entryDelta at h
    split at h
    · next hrole =>
      split at h
      · next t fs x y z hc hx hy hz =>
        split at h
        · next ht =>
          subst ht
          exact ⟨hrole.1, hrole.2, fs, x, y, z, hc, hx, hy, hz, Option.some.inj h⟩
        · cases h
      · cases h
    · cases h
  · rintro ⟨hrole, hkind, fs, x, y, z, hc, hx, hy, hz, rfl⟩
    simp only [entryDelta, hrole, hkind, hc, hx, hy, hz, and_self, if_true]

/-- Settles O41: within R114's bound the root's search is exact, and the nearest whole number is the root or one above. -/
theorem deltaFIsTheScalarDifference : Obligations.DeltaFIsTheScalarDifference := by
  unfold Obligations.DeltaFIsTheScalarDifference
  intro role e slots
  constructor
  · intro d sat h
    obtain ⟨hrole, hkind, fs, x, y, z, hc, hx, hy, hz, -⟩ := entryDelta_eq_some_iff.mp h
    exact ⟨hrole, hkind, fs, x, y, z, hc, hx, hy, hz⟩
  · intro fs x y z hrole hkind hc hx hy hz hxb hyb hzb
    have hn := sumSquares_toNat_lt hxb hyb hzb
    refine ⟨nearestRoot (x * x + y * y + z * z).toNat, ?_, fun hr => ?_, ?_⟩
    · rw [← sumSquares_toNat_cast]; exact lt_nearestRoot_sq hn
    · rw [← sumSquares_toNat_cast]; exact nearestRoot_sq_lt hn hr
    · exact entryDelta_eq_some_iff.mpr ⟨hrole, hkind, fs, x, y, z, hc, hx, hy, hz, deltaOf_eq fs x y z⟩

end Sys2Proof.ScalarDifference

/-! The storm detector (R118): the values it takes from a record, its judgement of their changes, and the own STORM
assertion that an event sets (R29, R31, R35). -/

namespace Sys2Proof.StormJudgement

open Sys2Proof.Machine

/-! ## The own STORM assertion -/

/-- R35: the wire OR that the presence block recomputes is the hut's. -/
theorem orNow_eq_hutOr (p : PresenceBlock) : p.orNow = hutOr p.own p.peers := by
  unfold PresenceBlock.orNow
  induction p.peers with
  | nil => simp [hutOr]
  | cons peer rest ih =>
    rw [List.foldr_cons, ih]
    by_cases hpresent : peer.presence = .present <;> simp [hpresent, hutOr, WireSet.join, Bool.or_left_comm]

theorem setOwnStorm_of_eq {b : Bool} {s : State} (h : s.presence.own.storm = b) : setOwnStorm b s = s := by
  subst h
  exact if_pos rfl

theorem setOwnStorm_of_ne {b : Bool} {s : State} (h : s.presence.own.storm ≠ b) :
    setOwnStorm b s =
      offerFlag { s.presence.own with storm := b }
        (s.withPresence
          { s.presence with
            own := { s.presence.own with storm := b }
            wireOr := hutOr { s.presence.own with storm := b } s.presence.peers }) := by
  rcases setOwn_spec { s.presence.own with storm := b } s with ⟨hsame, -⟩ | ⟨-, hset⟩
  · exact absurd (congrArg WireSet.storm hsame).symm h
  · rw [setOwnStorm, hset, PresenceBlock.recomputed, orNow_eq_hutOr]

/-- An offer to the FLAG slot, with what the standing decides inside the line's new state (R18). -/
theorem offerFlag_eq (w : WireSet) (s : State) :
    offerFlag w s = s.withLine
      (if s.accepts then { s.line with flagSlot := some w, activity := s.line.activity.replacedAt .flag } else s.line) := by
  rcases offerFlag_spec w s with ⟨hacc, h⟩ | ⟨hacc, h⟩ <;> rw [h, hacc] <;> rfl

/-! ## The values of a record -/

/-- A list of values that are all there is read as those values. -/
theorem mapM_id_eq_some_iff {l : List (Option Int)} {values : List Int} :
    l.mapM id = some values ↔ l = values.map some := by
  induction l generalizing values with
  | nil => cases values <;> simp
  | cons x rest ih =>
    rw [List.mapM_cons]
    cases values with
    | nil => simp [Option.bind_eq_some_iff]
    | cons v vs => simp [Option.bind_eq_some_iff, ih]

theorem fieldValues_eq_some_iff {role : Role} {slots : List (Option Int)} {values : List Int} :
    fieldValues role slots = some values ↔ slots.take (fieldChannels role) = values.map some :=
  mapM_id_eq_some_iff

/-- A GAP in a field channel leaves the detector without values. -/
theorem fieldValues_eq_none_of_gap {role : Role} {slots : List (Option Int)} {i : Nat} (hi : i < fieldChannels role)
    (hlen : i < slots.length) (hgap : slots.getD i none = none) : fieldValues role slots = none := by
  rw [Option.eq_none_iff_forall_ne_some]
  intro values h
  have hget : (slots.take (fieldChannels role))[i]? = some none := by
    rw [List.getElem?_take_of_lt hi, List.getElem?_eq_getElem hlen, ← hgap, List.getD_eq_getElem _ _ hlen]
  rw [fieldValues_eq_some_iff.mp h, List.getElem?_map] at hget
  simp at hget

theorem fieldChannels_le_four (role : Role) : fieldChannels role ≤ 4 := by cases role <;> decide

/-! ## The judgement -/

section Judge

variable {h : Nat} {d : StormDetector} {deltas : List Nat}

theorem judge_of_small (ha : d.asserted = false) (hsmall : ∀ x ∈ deltas, x < h) :
    judge h d deltas = ({ d with onset := 0 }, none) := by
  have hany : (deltas.any fun x => decide (h ≤ x)) = false := by simpa using hsmall
  simp only [judge, ha, hany, Bool.false_eq_true, if_false]

theorem judge_of_onset (ha : d.asserted = false) (hlarge : ∃ x ∈ deltas, h ≤ x) :
    judge h d deltas =
      if d.onset = 2 then ({ d with asserted := true, onset := 0, quiet := 0 }, some true)
      else ({ d with onset := d.onset + 1 }, none) := by
  have hany : (deltas.any fun x => decide (h ≤ x)) = true := by simpa using hlarge
  simp only [judge, ha, hany, Bool.false_eq_true, if_false, if_true, onsetRecords, Nat.reduceEqDiff]

theorem judge_of_unquiet (ha : d.asserted = true) (hlarge : ∃ x ∈ deltas, divRound h 2 ≤ (x : Int)) :
    judge h d deltas = ({ d with quiet := 0 }, none) := by
  have hall : (deltas.all fun x => decide ((x : Int) < divRound h 2)) = false := by simpa using hlarge
  simp only [judge, ha, hall, Bool.false_eq_true, if_false, if_true]

theorem judge_of_quiet (ha : d.asserted = true) (hsmall : ∀ x ∈ deltas, (x : Int) < divRound h 2) :
    judge h d deltas =
      if d.quiet = 59 then ({ d with asserted := false, onset := 0, quiet := 0 }, some false)
      else ({ d with quiet := d.quiet + 1 }, none) := by
  have hall : (deltas.all fun x => decide ((x : Int) < divRound h 2)) = true := by simpa using hsmall
  simp only [judge, ha, hall, if_true, quietRecords, Nat.reduceEqDiff]

end Judge

/-! ## One record -/

section Record

variable {s : State} {slots : List (Option Int)} {values : List Int}

/-- The state with a detector that has taken a record's values as its reference (R118). -/
def withDetector (s : State) (values : List Int) (d : StormDetector) : State :=
  s.withAssembler { s.assembler with storm := { d with reference := some values } }

theorem stormRecord_of_gap (hgap : fieldValues s.straps.role slots = none) : stormRecord slots s = s := by
  rw [stormRecord, hgap]

theorem stormRecord_of_first (hvalues : fieldValues s.straps.role slots = some values)
    (href : s.assembler.storm.reference = none) :
    stormRecord slots s = withDetector s values s.assembler.storm := by
  rw [stormRecord, hvalues]; dsimp only; rw [href]; rfl

variable {ref : List Int}

theorem stormRecord_of_no_threshold (hvalues : fieldValues s.straps.role slots = some values)
    (href : s.assembler.storm.reference = some ref) (hh : s.store.active.header.stormThreshold = 0) :
    stormRecord slots s = withDetector s values s.assembler.storm := by
  rw [stormRecord, hvalues]; dsimp only; rw [href]; exact if_pos hh

/-- With a reference and a threshold the record is judged, and its event, if it makes one, handed on. -/
theorem stormRecord_of_judge (hvalues : fieldValues s.straps.role slots = some values)
    (href : s.assembler.storm.reference = some ref) (hh : s.store.active.header.stormThreshold ≠ 0)
    {d : StormDetector} {event : Option Bool}
    (hjudge : judge s.store.active.header.stormThreshold s.assembler.storm (changes values ref) = (d, event)) :
    stormRecord slots s = handStorm event (withDetector s values d) := by
  rw [stormRecord, hvalues]; dsimp only; rw [href]; dsimp only; rw [if_neg hh, hjudge]; rfl

end Record

/-- Settles O42: one equation of the judgement for each clause, and the event's effect on the own wires. -/
theorem stormDetectorJudgesBaseRecords : Obligations.StormDetectorJudgesBaseRecords := by
  unfold Obligations.StormDetectorJudgesBaseRecords
  refine ⟨fun b s => ⟨setOwnStorm_of_eq, fun hne => ?_⟩, fun s slots hlen => ⟨?gap, fun values htake => ?values⟩⟩
  · rw [setOwnStorm_of_ne hne, offerFlag_eq]; rfl
  case gap =>
    rintro ⟨i, hi, hgap⟩
    have hrole := fieldChannels_le_four s.straps.role
    exact stormRecord_of_gap (fieldValues_eq_none_of_gap hi (by omega) hgap)
  case values =>
    have hvalues := fieldValues_eq_some_iff.mpr htake
    refine ⟨stormRecord_of_first hvalues, fun ref href => ?_⟩
    refine ⟨stormRecord_of_no_threshold hvalues href, fun hh ha hsmall => ?_, fun hh ha hlarge hcount => ?_,
      fun hh ha hlarge hcount => ?_, fun hh ha hlarge => ?_, fun hh ha hsmall hcount => ?_,
      fun hh ha hsmall hcount => ?_⟩
    · exact stormRecord_of_judge hvalues href hh (judge_of_small ha hsmall)
    · exact stormRecord_of_judge hvalues href hh ((judge_of_onset ha hlarge).trans (if_neg (by omega)))
    · exact stormRecord_of_judge hvalues href hh ((judge_of_onset ha hlarge).trans (if_pos hcount))
    · exact stormRecord_of_judge hvalues href hh (judge_of_unquiet ha hlarge)
    · exact stormRecord_of_judge hvalues href hh ((judge_of_quiet ha hsmall).trans (if_neg (by omega)))
    · exact stormRecord_of_judge hvalues href hh ((judge_of_quiet ha hsmall).trans (if_pos hcount))

end Sys2Proof.StormJudgement

/-! The write of the record ring (R139): what the ring holds after it, and LAPPED as the sign of a record given up. -/

namespace Sys2Proof.RingWrite

open Sys2Proof.Machine

theorem full_iff (r : Ring) : r.full = true ↔ (r.producer - r.consumer).toNat = 1024 := decide_eq_true_iff

section Write

variable {s : State} {content : RecordContent}

/-- R139, step 1: a full ring gives up its oldest unconsumed record. -/
theorem ringWrite_consumer_of_full (h : s.ring.full = true) :
    (ringWrite content s).ring.consumer = s.ring.consumer + 1#16 := by
  rw [ringWrite_ring]; exact if_pos h

theorem ringWrite_consumer_of_not_full (h : ¬ s.ring.full = true) :
    (ringWrite content s).ring.consumer = s.ring.consumer := by
  rw [ringWrite_ring]; exact if_neg h

/-- C moves only when a record is given up: one step in 2^16 never comes back to where it began. -/
theorem ringWrite_consumer_ne_iff :
    (ringWrite content s).ring.consumer ≠ s.ring.consumer ↔ s.ring.full = true := by
  by_cases h : s.ring.full = true
  · have hmoves : s.ring.consumer + 1#16 ≠ s.ring.consumer := by bv_omega
    exact iff_of_true (ringWrite_consumer_of_full h ▸ hmoves) h
  · exact iff_of_false (not_not.mpr (ringWrite_consumer_of_not_full h)) h

/-- R139: LAPPED is set with the move of C, and kept where C stays. -/
theorem ringWrite_lapped :
    ringWrite content s = (s.withRing (ringWrite content s).ring).withConditions
      { s.conditions with
        lapped := (ringWrite content s).ring.consumer ≠ s.ring.consumer || s.conditions.lapped } := by
  have hlapped : s.ring.full = decide ((ringWrite content s).ring.consumer ≠ s.ring.consumer) := by
    rw [Bool.eq_iff_iff, decide_eq_true_iff, ringWrite_consumer_ne_iff]
  rw [← hlapped, Bool.or_comm]
  exact ringWrite_spec content s

/-- R139, step 2: the new record stands in the place of P. -/
theorem ringWrite_recordAt_producer :
    (ringWrite content s).ring.recordAt s.ring.producer = some (s.recordOf content) := by
  rw [ringWrite_ring]; exact lookupPlace_insertPlace_same _ _ _

theorem ringWrite_recordAt_of_ne {q : BitVec 16} (h : placeOf q ≠ placeOf s.ring.producer) :
    (ringWrite content s).ring.recordAt q = s.ring.recordAt q := by
  rw [ringWrite_ring]; exact lookupPlace_insertPlace_ne h _ _

theorem ringWrite_written_of_lt (h : s.ring.written < 1024) :
    (ringWrite content s).ring.written = s.ring.written + 1 := by
  rw [ringWrite_ring]; exact if_pos h

theorem ringWrite_written_of_le (h : 1024 ≤ s.ring.written) :
    (ringWrite content s).ring.written = s.ring.written := by
  rw [ringWrite_ring]; exact if_neg h.not_gt

end Write

/-- Settles O51: one fact of the written ring for each clause, and LAPPED told from the move of C. -/
theorem ringWriteIsOneEvent : Obligations.RingWriteIsOneEvent := by
  unfold Obligations.RingWriteIsOneEvent
  intro s content full
  have hfull : s.ring.full = true ↔ full := full_iff s.ring
  exact ⟨(ringWrite content s).ring, ringWrite_lapped,
    fun h => ringWrite_consumer_of_full (hfull.mpr h), fun h => ringWrite_consumer_of_not_full (mt hfull.mp h),
    ringWrite_recordAt_producer, fun _ => ringWrite_recordAt_of_ne, rfl,
    ringWrite_written_of_lt, ringWrite_written_of_le, rfl⟩

end Sys2Proof.RingWrite

/-! What every command keeps. Each invariant but the assembler's speaks of one block, so a change of another block
keeps it at once; `Keeps` says of two states that the second meets every invariant the first one meets, and each
shared operation of the blocks is shown to keep them. -/

namespace Sys2Proof.Keeping

open Sys2Proof.Machine
open Sys2Proof.StormJudgement (orNow_eq_hutOr)

/-! ## The state after a command -/

/-- The state a command ends in. -/
def after (c : Instr) (s : State) : State :=
  match exec c s with
  | .next t => t
  | .fault _ => s
  | .refused _ => s

theorem exec_eq_after (c : Instr) (s : State) : exec c s = .next (after c s) := by cases c <;> rfl

/-! ## Keeping the invariants -/

/-- The invariants of all blocks but the assembler pass from `s` to `t`, and the waiting commands stay. -/
structure KeepsBlocks (s t : State) : Prop where
  ring : RingInv s.ring → RingInv t.ring
  wire : WireInv s.presence → WireInv t.presence
  line : LineInv s → LineInv t
  places : PlacesInv s.line → PlacesInv t.line
  clock : ClockInv s → ClockInv t
  history : HistoryInv s → HistoryInv t
  store : StoreInv s → StoreInv t
  query : QueryInv s.query → QueryInv t.query
  pending : t.pending = s.pending

/-- Every invariant passes from `s` to `t`. -/
structure Keeps (s t : State) : Prop extends KeepsBlocks s t where
  assembly : AssemblyInv s → AssemblyInv t

theorem KeepsBlocks.trans {s t u : State} (h : KeepsBlocks s t) (k : KeepsBlocks t u) : KeepsBlocks s u :=
  ⟨k.ring ∘ h.ring, k.wire ∘ h.wire, k.line ∘ h.line, k.places ∘ h.places, k.clock ∘ h.clock, k.history ∘ h.history,
    k.store ∘ h.store, k.query ∘ h.query, k.pending.trans h.pending⟩

theorem Keeps.refl (s : State) : Keeps s s := ⟨⟨id, id, id, id, id, id, id, id, rfl⟩, id⟩

theorem Keeps.trans {s t u : State} (h : Keeps s t) (k : Keeps t u) : Keeps s u :=
  ⟨h.toKeepsBlocks.trans k.toKeepsBlocks, k.assembly ∘ h.assembly⟩

/-- A choice between two keeping states keeps. -/
theorem Keeps.ite {s t u : State} {p : Prop} [Decidable p] (h : p → Keeps s t) (k : ¬ p → Keeps s u) :
    Keeps s (if p then t else u) := by
  split
  · exact h ‹_›
  · exact k ‹_›

section OneBlock

variable {s : State}

theorem keeps_withLine {l : LineInterface} (hline : LineInv s → LineInv (s.withLine l))
    (hplaces : PlacesInv s.line → PlacesInv l) : Keeps s (s.withLine l) :=
  ⟨⟨id, id, hline, hplaces, id, id, id, id, rfl⟩, id⟩

theorem keeps_withPresence {p : PresenceBlock} (h : WireInv s.presence → WireInv p) : Keeps s (s.withPresence p) :=
  ⟨⟨id, h, id, id, id, id, id, id, rfl⟩, id⟩

theorem keeps_withClock {k : HutClock} (h : ClockInv s → ClockInv (s.withClock k)) : Keeps s (s.withClock k) :=
  ⟨⟨id, id, id, id, h, id, id, id, rfl⟩, id⟩

theorem keeps_withEngine (x : Engine) : Keeps s (s.withEngine x) := ⟨⟨id, id, id, id, id, id, id, id, rfl⟩, id⟩

theorem keeps_withPort {p : SamplePort} (h : HistoryInv s → HistoryInv (s.withPort p)) : Keeps s (s.withPort p) :=
  ⟨⟨id, id, id, id, id, h, id, id, rfl⟩, id⟩

theorem keeps_withStore {c : CorrectionStore} (h : StoreInv s → StoreInv (s.withStore c)) : Keeps s (s.withStore c) :=
  ⟨⟨id, id, id, id, id, id, h, id, rfl⟩, id⟩

theorem keeps_withQuery {q : QueryEngine} (h : QueryInv s.query → QueryInv q) : Keeps s (s.withQuery q) :=
  ⟨⟨id, id, id, id, id, id, id, h, rfl⟩, id⟩

theorem keeps_withRing {r : Ring} (h : RingInv s.ring → RingInv r) : Keeps s (s.withRing r) :=
  ⟨⟨h, id, id, id, id, id, id, id, rfl⟩, id⟩

theorem keeps_withConditions (x : Conditions) : Keeps s (s.withConditions x) :=
  ⟨⟨id, id, id, id, id, id, id, id, rfl⟩, id⟩

theorem keeps_withRestart (x : RestartState) : Keeps s (s.withRestart x) := ⟨⟨id, id, id, id, id, id, id, id, rfl⟩, id⟩

theorem keeps_withPins (x : Pins) : Keeps s (s.withPins x) := ⟨⟨id, id, id, id, id, id, id, id, rfl⟩, id⟩

theorem keeps_withDue (x : Due) : Keeps s (s.withDue x) := ⟨⟨id, id, id, id, id, id, id, id, rfl⟩, id⟩

theorem keepsBlocks_withAssembler (x : Assembler) : KeepsBlocks s (s.withAssembler x) :=
  ⟨id, id, id, id, id, id, id, id, rfl⟩

/-- The assembler's invariant speaks of the queue and the last opened epoch alone. -/
theorem keeps_withAssembler {x : Assembler} (hq : x.queue = s.assembler.queue)
    (hl : x.lastOpened = s.assembler.lastOpened) : Keeps s (s.withAssembler x) := by
  refine ⟨keepsBlocks_withAssembler x, fun h => ?_⟩
  unfold AssemblyInv
  simp only [State.withAssembler_assembler, State.withAssembler_straps, hq, hl]
  exact h

end OneBlock

/-! ## The record ring -/

theorem placeOf_lt (q : BitVec 16) : placeOf q < 1024 := Nat.mod_lt _ (by decide)

theorem placesWf_insertPlace (q : BitVec 16) (x : Record) {l : List (Nat × Record)} (h : PlacesWf l) :
    PlacesWf (insertPlace (placeOf q) x l) := by
  refine ⟨rising_insertPlace _ _ _ h.1, fun p hp => ?_⟩
  rcases mem_insertPlace hp with rfl | hp
  · exact placeOf_lt q
  · exact h.2 p hp

/-- A write moves P by one, so a retained record is the new one or was retained before, in another place. -/
theorem ringInv_ringWrite (c : RecordContent) (s : State) (h : RingInv s.ring) : RingInv (ringWrite c s).ring := by
  obtain ⟨hplaces, hwritten, hcount, hrecords⟩ := h
  rw [ringWrite_ring]
  have hfull : s.ring.full = decide ((s.ring.producer - s.ring.consumer).toNat = 1024) := rfl
  have hcount' : (s.ring.producer - s.ring.consumer).toNat ≤ s.ring.written := hcount
  have hnum : ringPlaces = 1024 := rfl
  refine ⟨placesWf_insertPlace _ _ hplaces, ?_, ?_, fun q hq1 hq => ?_⟩
  · dsimp only; split <;> omega
  · simp only [Ring.unconsumed, Ring.behind, hfull, decide_eq_true_eq]
    split <;> split <;> bv_omega
  · by_cases hnew : q = s.ring.producer
    · subst hnew
      exact ⟨s.recordOf c, lookupPlace_insertPlace_same _ _ _, rfl⟩
    · simp only [Ring.behind] at hq1 hq
      have hbehind : (s.ring.producer - q).toNat + 1 = (s.ring.producer + 1#16 - q).toNat := by bv_omega
      have hold : (s.ring.producer - q).toNat ≤ 1023 ∧ (s.ring.producer - q).toNat ≤ s.ring.written := by
        split at hq <;> omega
      obtain ⟨x, hx, hseq⟩ := hrecords q (by simp only [Ring.behind]; bv_omega) hold.2
      have hplace : placeOf q ≠ placeOf s.ring.producer := by
        simp only [placeOf, ringPlaces]; bv_omega
      exact ⟨x, (lookupPlace_insertPlace_ne hplace _ _).trans hx, hseq⟩

theorem ringWrite_keeps (c : RecordContent) (s : State) : Keeps s (ringWrite c s) :=
  ⟨⟨ringInv_ringWrite c s, id, id, id, id, id, id, id, rfl⟩, id⟩

theorem writeNote_keeps (v : NoteValue) (s : State) : Keeps s (writeNote v s) := ringWrite_keeps _ s

/-- A CONSUME moves C up to a record that is still retained. -/
theorem ringInv_consume (r : Ring) (q : BitVec 16) (h : RingInv r) : RingInv (consumeOutcome r q).2 := by
  obtain ⟨hplaces, hwritten, hcount, hrecords⟩ := h
  unfold consumeOutcome
  split
  · next hq =>
    refine ⟨hplaces, hwritten, ?_, hrecords⟩
    simp only [Ring.unconsumed, Ring.behind] at hcount hq ⊢
    bv_omega
  · split
    · exact ⟨hplaces, hwritten, hcount, hrecords⟩
    · split <;> exact ⟨hplaces, hwritten, hcount, hrecords⟩

end Sys2Proof.Keeping

/-! The presence block and the line under the shared operations: what keeps the wire OR the OR of R35, the score in
its standing's band, and the queues within their capacities. -/

namespace Sys2Proof.Keeping

open Sys2Proof.Machine
open Sys2Proof.StormJudgement (orNow_eq_hutOr)

/-! ## The peer table -/

/-- What a peer puts on the hut's wires (R35). -/
def shown (e : Peer) : WireSet := if e.presence = .present then e.wires else .clear

theorem hutOr_eq_any_shown (w : WireSet) (ps : List Peer) :
    hutOr w ps =
      ⟨w.storm || (ps.map shown).any WireSet.storm, w.door || (ps.map shown).any WireSet.door,
        w.heater || (ps.map shown).any WireSet.heater, w.service || (ps.map shown).any WireSet.service⟩ := by
  have hstorm (e : Peer) : (shown e).storm = (decide (e.presence = .present) && e.wires.storm) := by
    by_cases h : e.presence = .present <;> simp [shown, h, WireSet.clear]
  have hdoor (e : Peer) : (shown e).door = (decide (e.presence = .present) && e.wires.door) := by
    by_cases h : e.presence = .present <;> simp [shown, h, WireSet.clear]
  have hheater (e : Peer) : (shown e).heater = (decide (e.presence = .present) && e.wires.heater) := by
    by_cases h : e.presence = .present <;> simp [shown, h, WireSet.clear]
  have hservice (e : Peer) : (shown e).service = (decide (e.presence = .present) && e.wires.service) := by
    by_cases h : e.presence = .present <;> simp [shown, h, WireSet.clear]
  simp only [hutOr, List.any_map, Function.comp_def, hstorm, hdoor, hheater, hservice]

/-- The wire OR depends on what the peers show. -/
theorem hutOr_congr {ps qs : List Peer} (w : WireSet) (h : ps.map shown = qs.map shown) : hutOr w ps = hutOr w qs := by
  rw [hutOr_eq_any_shown, hutOr_eq_any_shown, h]

theorem forall_mem_modify {α : Type} {P : α → Prop} {l : List α} {i : Nat} {f : α → α} (h : ∀ e ∈ l, P e)
    (hf : ∀ e, l[i]? = some e → P (f e)) : ∀ e ∈ l.modify i f, P e := by
  intro e he
  obtain ⟨j, hj⟩ := List.mem_iff_getElem?.mp he
  rw [List.getElem?_modify] at hj
  split at hj
  · next hij =>
    subst hij
    obtain ⟨x, hx, rfl⟩ := Option.map_eq_some_iff.mp hj
    exact hf x hx
  · exact h e (List.mem_of_getElem? (by simpa using hj))

/-- A change of one member that `g` does not see is not seen in the whole list. -/
theorem map_modify_of_eq {α β : Type} {l : List α} {i : Nat} {f : α → α} {g : α → β}
    (h : ∀ e, l[i]? = some e → g (f e) = g e) : (l.modify i f).map g = l.map g := by
  refine List.ext_getElem? fun j => ?_
  rw [List.getElem?_map, List.getElem?_map, List.getElem?_modify]
  split
  · next hij =>
    subst hij
    cases hx : l[i]? with
    | none => rfl
    | some x => simp [h x hx]
  · simp

theorem modifyPeer_spec (p : PresenceBlock) (n : Station) (f : Peer → Peer) :
    (p.modifyPeer n f).own = p.own ∧ (p.modifyPeer n f).wireOr = p.wireOr ∧
      ((p.modifyPeer n f).peers = p.peers.modify (n.toNat - 1) f ∨ (p.modifyPeer n f).peers = p.peers) := by
  unfold PresenceBlock.modifyPeer
  split
  · exact ⟨rfl, rfl, .inl rfl⟩
  · exact ⟨rfl, rfl, .inr rfl⟩

/-- A change of peers that leaves presence and wire sets as they stand keeps the wire OR. -/
theorem wireInv_of_same_peers {p q : PresenceBlock} (hown : q.own = p.own) (hor : q.wireOr = p.wireOr)
    (hpeers : q.peers.map (fun e => (e.presence, e.wires)) = p.peers.map (fun e => (e.presence, e.wires)))
    (h : WireInv p) : WireInv q := by
  obtain ⟨hlen, hclear, hwire, hservice⟩ := h
  have hmap (l : List Peer) : l.map shown =
      (l.map fun e => (e.presence, e.wires)).map fun x => if x.1 = .present then x.2 else .clear := by
    rw [List.map_map]; rfl
  refine ⟨?_, fun e he hpres => ?_, ?_, hown ▸ hservice⟩
  · simpa [hlen] using congrArg List.length hpeers
  · have hmem : (e.presence, e.wires) ∈ p.peers.map fun e => (e.presence, e.wires) :=
      hpeers ▸ List.mem_map_of_mem he
    obtain ⟨x, hx, hxe⟩ := List.mem_map.mp hmem
    obtain ⟨hxp, hxw⟩ := Prod.mk.inj hxe
    rw [← hxw]
    exact hclear x hx (hxp ▸ hpres)
  · rw [hor, hwire, hown]
    exact hutOr_congr _ (by rw [hmap, hmap, hpeers])

theorem modifyPeer_same {p : PresenceBlock} {n : Station} {f : Peer → Peer}
    (hf : ∀ e, ((f e).presence, (f e).wires) = (e.presence, e.wires)) :
    (p.modifyPeer n f).peers.map (fun e => (e.presence, e.wires)) = p.peers.map (fun e => (e.presence, e.wires)) := by
  rcases (modifyPeer_spec p n f).2.2 with h | h <;> rw [h]
  exact map_modify_of_eq fun e _ => hf e

theorem keeps_modifyPeer_same {s : State} {n : Station} {f : Peer → Peer}
    (hf : ∀ e, ((f e).presence, (f e).wires) = (e.presence, e.wires)) :
    Keeps s (s.withPresence (s.presence.modifyPeer n f)) := by
  obtain ⟨hown, hor, -⟩ := modifyPeer_spec s.presence n f
  exact keeps_withPresence (wireInv_of_same_peers hown hor (modifyPeer_same hf))

theorem keeps_mapPeers_same {s : State} {f : Peer → Peer}
    (hf : ∀ e, ((f e).presence, (f e).wires) = (e.presence, e.wires)) :
    Keeps s (s.withPresence { s.presence with peers := s.presence.peers.map f }) :=
  keeps_withPresence (wireInv_of_same_peers rfl rfl (by simp only [List.map_map, Function.comp_def, hf]))

/-- Recomputing the wire OR makes it right, whatever it was. -/
theorem wireInv_recomputed {p : PresenceBlock} (hlen : p.peers.length = 30)
    (hclear : ∀ e ∈ p.peers, e.presence ≠ .present → e.wires = .clear) (hservice : p.own.service = false) :
    WireInv p.recomputed :=
  ⟨hlen, hclear, orNow_eq_hutOr p, hservice⟩

/-- A station that becomes PRESENT asserted nothing before, and asserts nothing yet. -/
theorem heard_keeps (src : Station) (s : State) : Keeps s (heard src s) := by
  rcases heard_spec src s with ⟨-, h⟩ | ⟨-, h⟩
  · rw [h]
    refine keeps_withPresence fun ⟨hlen, hclear, hwire, hservice⟩ => ?_
    obtain ⟨hown, hor, hpeers | hpeers⟩ := modifyPeer_spec s.presence src
      fun e => { e with presence := .present, lastHeard := some s.clock.time }
    · refine ⟨by rw [hpeers, List.length_modify, hlen], ?_, ?_, by rw [hown, hservice]⟩
      · rw [hpeers]
        exact forall_mem_modify hclear fun e _ hpres => absurd rfl hpres
      · rw [hor, hown, hwire, hpeers]
        refine hutOr_congr _ (map_modify_of_eq fun e he => ?_).symm
        by_cases hpres : e.presence = .present
        · simp [shown, hpres]
        · simp [shown, hpres, hclear e (List.mem_of_getElem? he) hpres]
    · exact ⟨hpeers ▸ hlen, hpeers ▸ hclear, by rw [hor, hown, hpeers, hwire], hown ▸ hservice⟩
  · rw [h]; exact .refl s

/-- The entry of a station, if it has one, is PRESENT. -/
def IsPresent (n : Station) (s : State) : Prop :=
  ∀ e, s.presence.peers[n.toNat - 1]? = some e → e.presence = .present

theorem isPresent_heard {src : Station} {s : State} (hsrc : namesPeer src = true) : IsPresent src (heard src s) := by
  intro e he
  rcases heard_spec src s with ⟨-, h⟩ | ⟨hn, -⟩
  · rw [h] at he
    simp only [State.withPresence_presence, PresenceBlock.modifyPeer, hsrc, if_true, List.getElem?_modify_eq] at he
    obtain ⟨x, -, rfl⟩ := Option.map_eq_some_iff.mp he
    rfl
  · simp [hsrc] at hn

/-- A PRESENT station's wire set is replaced and the OR recomputed where it could change. -/
theorem setPeerWires_keeps {src : Station} (w : WireSet) {s : State} (hsrc : namesPeer src = true → IsPresent src s) :
    Keeps s (setPeerWires src w s) := by
  rcases setPeerWires_spec src w s with ⟨hn, p, h, hpeers, hown, hor⟩ | ⟨-, h⟩
  · rw [h]
    refine keeps_withPresence fun ⟨hlen, hclear, hwire, hservice⟩ => ?_
    have hmod : p.peers = s.presence.peers.modify (src.toNat - 1) fun e => { e with wires := w } := by
      rw [hpeers, PresenceBlock.modifyPeer, if_pos hn]
    have hlen' : p.peers.length = 30 := by rw [hmod, List.length_modify, hlen]
    have hclear' : ∀ e ∈ p.peers, e.presence ≠ .present → e.wires = .clear := by
      rw [hmod]
      exact forall_mem_modify hclear fun e he hpres => absurd (hsrc hn e he) hpres
    refine ⟨hlen', hclear', ?_, hown ▸ hservice⟩
    rcases hor with hor | ⟨hsame, hor⟩
    · rw [hor, orNow_eq_hutOr]
    · rw [hor, hwire, hown, hmod]
      refine hutOr_congr _ (map_modify_of_eq fun e he => ?_).symm
      have hpeer : s.presence.peer src = e := by
        simp only [PresenceBlock.peer, hn, if_true, List.getD_eq_getElem?_getD, he, Option.getD_some]
      simp only [shown, ← hsame, hpeer]
  · rw [h]; exact .refl s

/-- An ABSENT station asserts nothing (R27). -/
theorem keeps_absent (n : Station) (s : State) :
    Keeps s (s.withPresence (s.presence.modifyPeer n Peer.absented).recomputed) := by
  refine keeps_withPresence fun ⟨hlen, hclear, _, hservice⟩ => ?_
  obtain ⟨hown, -, hpeers | hpeers⟩ := modifyPeer_spec s.presence n Peer.absented
  · refine wireInv_recomputed (by rw [hpeers, List.length_modify, hlen]) ?_ (hown ▸ hservice)
    rw [hpeers]
    exact forall_mem_modify hclear fun _ _ _ => rfl
  · exact wireInv_recomputed (hpeers ▸ hlen) (hpeers ▸ hclear) (hown ▸ hservice)

theorem keeps_debounce (n m : Nat) (s : State) :
    Keeps s (s.withPresence { s.presence with debounce0 := n, debounce1 := m }) :=
  keeps_withPresence id

/-! ## The line -/

/-- The score lies in the band of the standing (R15, Figure 1-7). -/
def Band (st : Standing) (n : Nat) : Prop :=
  match st with
  | .joining => n < 192
  | .normal => n < 96
  | .restrained => 64 < n ∧ n < 192
  | .withdrawn => 64 < n
  | .strapFault => n = 0

theorem emptied_eq_iff (l : LineInterface) :
    l.emptied = l ↔ l.markSlot = none ∧ l.flagSlot = none ∧ l.replyQueue = [] ∧ l.askQueue = [] ∧ l.obsQueue = [] ∧
      l.tempSlot = none ∧ l.rollSlot = none := by
  cases l
  simp only [LineInterface.emptied, LineInterface.mk.injEq, true_and, and_true]
  constructor <;> rintro ⟨h1, h2, h3, h4, h5, h6, h7⟩ <;> exact ⟨h1.symm, h2.symm, h3.symm, h4.symm, h5.symm, h6.symm, h7.symm⟩

/-- The line's invariant by its parts: the score, the activity, the places, the strap fault and the cycle. -/
theorem lineInv_iff (s : State) :
    LineInv s ↔ (s.line.score ≤ 255 ∧ Band s.line.standing s.line.score) ∧
      ((s.line.standing = .strapFault → s.line.activity = .waiting) ∧
        ∀ sd, s.line.activity = .sending sd → s.line.standing = .normal ∨ s.line.standing = .restrained) ∧
      (s.line.standing = .withdrawn ∨ s.line.standing = .strapFault → s.line.emptied = s.line) ∧
      (s.line.standing = .strapFault ↔ (s.straps.station = 0#5 ∨ s.straps.station = 31#5)) ∧
      1 ≤ s.line.cycle ∧ s.line.cycle ≤ 5 := by
  unfold LineInv Band
  cases s.line.standing <;> simp <;> tauto

/-- The line's invariant after a change of the line under the same standing. -/
theorem lineInv_withLine {s : State} {l : LineInterface} (h : LineInv s) (hst : l.standing = s.line.standing)
    (hsc : l.score = s.line.score) (hcy : 1 ≤ l.cycle ∧ l.cycle ≤ 5)
    (hfault : s.line.standing = .strapFault → s.line.activity = .waiting → l.activity = .waiting)
    (hsend : ∀ sd, l.activity = .sending sd → s.speaks = true ∨ ∃ sd', s.line.activity = .sending sd')
    (hempty : s.line.standing = .withdrawn ∨ s.line.standing = .strapFault → s.line.emptied = s.line → l.emptied = l) :
    LineInv (s.withLine l) := by
  obtain ⟨hscore, ⟨hwait, hspeak⟩, hplaces, hstrap, -⟩ := (lineInv_iff s).mp h
  rw [lineInv_iff]
  simp only [State.withLine_line, State.withLine_straps, hst, hsc]
  refine ⟨hscore, ⟨fun hf => hfault hf (hwait hf), fun sd hsd => ?_⟩, fun hw => hempty hw (hplaces hw), hstrap, hcy⟩
  rcases hsend sd hsd with hs | ⟨sd', hs⟩
  · simpa [State.speaks] using hs
  · exact hspeak sd' hs

/-- The cycle position, from 1 to 5. -/
theorem lineInv_cycle {s : State} (h : LineInv s) : 1 ≤ s.line.cycle ∧ s.line.cycle ≤ 5 :=
  ((lineInv_iff s).mp h).2.2.2.2

/-- A change of activity and counts alone. -/
theorem keeps_activity {s : State} {l : LineInterface}
    (hl : l = { s.line with
      activity := l.activity, quiet := l.quiet, joinCount := l.joinCount, ackDriven := l.ackDriven
      sendEnded := l.sendEnded })
    (hfault : s.line.standing = .strapFault → s.line.activity = .waiting → l.activity = .waiting)
    (hsend : ∀ sd, l.activity = .sending sd → s.speaks = true ∨ ∃ sd', s.line.activity = .sending sd') :
    Keeps s (s.withLine l) := by
  refine keeps_withLine (fun h => ?_) fun h => by rw [hl]; exact h
  refine lineInv_withLine h (by rw [hl]) (by rw [hl]) (by rw [hl]; exact lineInv_cycle h) hfault hsend fun _ hempty => ?_
  rw [emptied_eq_iff] at hempty ⊢
  rw [hl]; exact hempty

theorem accepts_standing {s : State} (h : s.accepts = true) :
    s.line.standing ≠ .withdrawn ∧ s.line.standing ≠ .strapFault := by
  unfold State.accepts at h
  constructor <;> intro hst <;> simp [hst] at h

/-- A queue is changed where the standing accepts packets. -/
theorem keeps_queues {s : State} (hacc : s.accepts = true) {l : LineInterface}
    (hl : l = { s.line with replyQueue := l.replyQueue, askQueue := l.askQueue, obsQueue := l.obsQueue })
    (hplaces : PlacesInv s.line → PlacesInv l) : Keeps s (s.withLine l) := by
  obtain ⟨hw, hf⟩ := accepts_standing hacc
  refine keeps_withLine (fun h => ?_) hplaces
  refine lineInv_withLine h (by rw [hl]) (by rw [hl]) (by rw [hl]; exact lineInv_cycle h) (fun _ => by rw [hl]; exact id)
    (fun sd hsd => .inr ⟨sd, by rw [hl] at hsd; exact hsd⟩) fun hst => ?_
  rcases hst with hst | hst
  · exact absurd hst hw
  · exact absurd hst hf

/-! ## Offers -/

theorem sending_of_replacedAt {p : Place} {a : LineActivity} {sd : Send} (h : a.replacedAt p = .sending sd) :
    ∃ sd', a = .sending sd' := by
  cases a <;> simp_all [LineActivity.replacedAt]

/-- A slot is filled where the standing accepts packets, and the packet in flight from it is marked as replaced. -/
theorem keeps_slot (p : Place) {s : State} (hacc : s.accepts = true) {l : LineInterface}
    (hl : l = { s.line with
      markSlot := l.markSlot, flagSlot := l.flagSlot, tempSlot := l.tempSlot, rollSlot := l.rollSlot
      activity := s.line.activity.replacedAt p }) : Keeps s (s.withLine l) := by
  obtain ⟨hw, hf⟩ := accepts_standing hacc
  refine keeps_withLine (fun h => ?_) fun h => by rw [hl]; exact h
  refine lineInv_withLine h (by rw [hl]) (by rw [hl]) (by rw [hl]; exact lineInv_cycle h)
    (fun hst _ => absurd hst hf) (fun sd hsd => .inr (sending_of_replacedAt (by rw [hl] at hsd; exact hsd))) fun hst => ?_
  rcases hst with hst | hst
  · exact absurd hst hw
  · exact absurd hst hf

theorem offerMark_keeps (q : BitVec 8) (s : State) : Keeps s (offerMark q s) := by
  rcases offerMark_spec q s with ⟨hacc, h⟩ | ⟨-, h⟩ <;> rw [h]
  · exact keeps_slot .mark hacc rfl
  · exact .refl s

theorem offerFlag_keeps (w : WireSet) (s : State) : Keeps s (offerFlag w s) := by
  rcases offerFlag_spec w s with ⟨hacc, h⟩ | ⟨-, h⟩ <;> rw [h]
  · exact keeps_slot .flag hacc rfl
  · exact .refl s

theorem offerTemp_keeps (x : TempPacket) (s : State) : Keeps s (offerTemp x s) := by
  rcases offerTemp_spec x s with ⟨hacc, h⟩ | ⟨-, h⟩ <;> rw [h]
  · exact keeps_slot .temp hacc rfl
  · exact .refl s

theorem offerRoll_keeps (r : RollSummary) (s : State) : Keeps s (offerRoll r s) := by
  rcases offerRoll_spec r s with ⟨hacc, h⟩ | ⟨-, h⟩ <;> rw [h]
  · exact keeps_slot .roll hacc rfl
  · exact .refl s

theorem offerReply_keeps (r : Reply) (s : State) : Keeps s (offerReply r s) := by
  rcases offerReply_spec r s with ⟨⟨hacc, hroom⟩, h⟩ | ⟨-, h⟩ <;> rw [h]
  · refine keeps_queues hacc rfl fun ⟨_, hask, hobs, hfence⟩ => ⟨?_, hask, hobs, hfence⟩
    simp only [replyCapacity] at hroom
    simp only [List.length_append, List.length_singleton]; omega
  · exact .refl s

theorem offerAsk_keeps (a : OwnAsk) (s : State) : Keeps s (offerAsk a s) := by
  rcases offerAsk_spec a s with ⟨⟨hacc, hroom⟩, h⟩ | ⟨-, h⟩ <;> rw [h]
  · refine keeps_queues hacc rfl fun ⟨hreply, _, hobs, hfence⟩ => ⟨hreply, ?_, hobs, hfence⟩
    simp only [askCapacity] at hroom
    simp only [List.length_append, List.length_singleton]; omega
  · exact .refl s

/-- An OBS queue loses its oldest record, if it holds one, and no fence reply. -/
theorem dropOldestRecord_spec (q : List ObsPacket) :
    (dropOldestRecord q).countP ObsPacket.isFence = q.countP ObsPacket.isFence ∧
      (q.countP ObsPacket.isFence < q.length → (dropOldestRecord q).length + 1 = q.length) ∧
      (dropOldestRecord q).length ≤ q.length := by
  induction q with
  | nil => simp [dropOldestRecord]
  | cons x rest ih =>
    obtain ⟨hcount, hlen, hle⟩ := ih
    cases x with
    | record r => simp [dropOldestRecord, ObsPacket.isFence]
    | fence f =>
      refine ⟨by rw [dropOldestRecord, List.countP_cons, List.countP_cons, hcount], fun h => ?_, by simpa [dropOldestRecord] using hle⟩
      simp only [List.countP_cons, ObsPacket.isFence, if_true, List.length_cons] at h
      simp only [dropOldestRecord, List.length_cons]
      rw [hlen (by omega)]

/-- Room is made in a queue with at most one fence reply, and the fence reply stays (R19). -/
theorem obsRoom_spec (busy : Bool) {q : List ObsPacket} (hlen : q.length ≤ 4) (hfence : q.countP ObsPacket.isFence ≤ 1) :
    (obsRoom busy q).length ≤ 3 ∧ (obsRoom busy q).countP ObsPacket.isFence ≤ q.countP ObsPacket.isFence := by
  have hcap : obsCapacity = 4 := rfl
  unfold obsRoom
  split
  · exact ⟨by omega, le_rfl⟩
  · cases busy with
    | false =>
      obtain ⟨hcount, hdrop, -⟩ := dropOldestRecord_spec q
      exact ⟨by have := hdrop (by omega); simp only [Bool.false_eq_true, if_false]; omega, hcount.le⟩
    | true =>
      cases q with
      | nil => exact ⟨by simp, le_rfl⟩
      | cons x rest =>
        obtain ⟨hcount, hdrop, -⟩ := dropOldestRecord_spec rest
        have hrest : rest.countP ObsPacket.isFence ≤ (x :: rest).countP ObsPacket.isFence :=
          (List.sublist_cons_self x rest).countP_le
        simp only [List.length_cons] at *
        exact ⟨by have := hdrop (by omega); simp only [if_true, List.length_cons]; omega,
          by simp only [if_true, List.countP_cons, hcount, le_refl]⟩

theorem offerObs_keeps (x : ObsPacket) (s : State)
    (hx : x.isFence = true → s.line.obsQueue.any ObsPacket.isFence = false) : Keeps s (offerObs x s) := by
  rcases offerObs_spec x s with ⟨hacc, h⟩ | ⟨-, h⟩ <;> rw [h]
  · refine keeps_queues hacc rfl fun ⟨hreply, hask, hobs, hfence⟩ => ?_
    obtain ⟨hroom, hcount⟩ := obsRoom_spec (s.line.activity.inFlight .obs) hobs hfence
    refine ⟨hreply, hask, ?_, ?_⟩
    · simp only [List.length_append, List.length_singleton]; omega
    · rw [List.countP_append, List.countP_singleton]
      cases hfx : x.isFence with
      | false => rw [if_neg (by decide)]; omega
      | true =>
        have hnone : s.line.obsQueue.countP ObsPacket.isFence = 0 := by
          rw [List.countP_eq_zero]
          simpa using hx hfx
        rw [if_pos rfl]; omega
  · exact .refl s

/-! ## The own wires -/

theorem setOwn_keeps (w : WireSet) (s : State) (hw : w.service = s.presence.own.service) : Keeps s (setOwn w s) := by
  rcases setOwn_spec w s with ⟨-, h⟩ | ⟨-, h⟩ <;> rw [h]
  · exact .refl s
  · refine .trans (keeps_withPresence fun ⟨hlen, hclear, _, hservice⟩ => ?_) (offerFlag_keeps w _)
    exact wireInv_recomputed hlen hclear (hw.trans hservice)

theorem setOwnStorm_keeps (b : Bool) (s : State) : Keeps s (setOwnStorm b s) := setOwn_keeps _ s rfl

end Sys2Proof.Keeping

/-! The query engine's tables, the score and the standing, and the reception of packets and ASKs. -/

namespace Sys2Proof.Keeping

open Sys2Proof.Machine

/-! ## Pending queries -/

/-- Fewer queries, and fewer waiting ASKs, are still distinct and few. -/
theorem retireQueries_keeps (gone : PendingQuery → Bool) (s : State) : Keeps s (retireQueries gone s) := by
  obtain ⟨asks, h, hlen⟩ := retireQueries_spec gone s
  rw [h]
  refine .trans (keeps_withQuery fun ⟨hsubs, hfew, htags⟩ => ?_) (keeps_withLine (fun hline => ?_) ?_)
  · exact ⟨hsubs, (List.length_filter_le _ _).trans hfew, (List.filter_sublist.map _).nodup htags⟩
  · refine lineInv_withLine hline rfl rfl (lineInv_cycle hline) (fun _ => id) (fun sd hsd => .inr ⟨sd, hsd⟩) fun _ hempty => ?_
    obtain ⟨hmark, hflag, hreply, hask, hobs, htemp, hroll⟩ := (emptied_eq_iff _).mp hempty
    have hnone : asks = [] := List.length_eq_zero_iff.mp (by
      have : s.line.askQueue.length = 0 := by rw [show s.line.askQueue = [] from hask]; rfl
      omega)
    exact (emptied_eq_iff _).mpr ⟨hmark, hflag, hreply, hnone, hobs, htemp, hroll⟩
  · exact fun ⟨hreply, hask, hobs, hfence⟩ => ⟨hreply, hlen.trans hask, hobs, hfence⟩

/-- What tells two subscription entries apart: station and class. -/
def subKey (e : Subscription) : Station × Bool := (e.station, e.isTemp)

theorem sameKey_iff (a b : Subscription) : a.sameKey b = true ↔ subKey a = subKey b := by
  simp [Subscription.sameKey, subKey]

theorem subs_distinct_iff (subs : List Subscription) :
    subs.Pairwise (fun a b => a.sameKey b = false) ↔ (subs.map subKey).Nodup := by
  rw [List.Nodup, List.pairwise_map]
  refine List.Pairwise.iff fun {a b} => ?_
  rw [Ne, ← sameKey_iff, Bool.not_eq_true]

/-- A change of the entries' content leaves their stations and classes distinct. -/
theorem keeps_subs {s : State} {subs : List Subscription} (h : subs.map subKey = s.query.subs.map subKey) :
    Keeps s (s.withQuery { s.query with subs := subs }) :=
  keeps_withQuery fun ⟨hsubs, hfew, htags⟩ => ⟨by rw [subs_distinct_iff] at hsubs ⊢; rwa [h], hfew, htags⟩

theorem keeps_mapSubs {s : State} {f : Subscription → Subscription} (hf : ∀ e, subKey (f e) = subKey e) :
    Keeps s (s.withQuery { s.query with subs := s.query.subs.map f }) :=
  keeps_subs (by simp only [List.map_map, Function.comp_def, hf])

/-! ## The score and the standing -/

/-- A score that has risen by 8 at most is in the band of the standing it is evaluated to. -/
theorem band_nextStanding (joined : Bool) {st : Standing} {m n : Nat} (h : Band st m) (hn : n ≤ m + 8)
    (hfault : st = .strapFault → n = 0) : Band (nextStanding joined n st) n := by
  cases st with
  | joining => simp only [Band] at h; simp only [nextStanding]; split_ifs <;> simp only [Band] <;> omega
  | normal => simp only [Band] at h; simp only [nextStanding]; split_ifs <;> simp only [Band] <;> omega
  | restrained => simp only [Band] at h; simp only [nextStanding]; split_ifs <;> simp only [Band] <;> omega
  | withdrawn => simp only [Band] at h; simp only [nextStanding]; split_ifs <;> simp only [Band] <;> omega
  | strapFault => exact hfault rfl

theorem nextStanding_eq_strapFault_iff (joined : Bool) (n : Nat) (st : Standing) :
    nextStanding joined n st = .strapFault ↔ st = .strapFault := by
  cases st <;> simp only [nextStanding] <;> split_ifs <;> simp

/-- A node that speaks goes on speaking while its score does not rise. -/
theorem nextStanding_speaks (joined : Bool) {st : Standing} {m n : Nat} (h : Band st m) (hn : n ≤ m)
    (hst : st = .normal ∨ st = .restrained) :
    nextStanding joined n st = .normal ∨ nextStanding joined n st = .restrained := by
  rcases hst with rfl | rfl
  · simp only [nextStanding]; split_ifs <;> simp
  · simp only [Band] at h
    simp only [nextStanding]
    split_ifs
    · simp
    · omega
    · simp

/-- The line after the standing has been entered: the places are emptied exactly on the way into WITHDRAWN. -/
theorem enterStanding_line (st : Standing) (s : State) :
    ∃ l q, enterStanding st s = writeNote (.standing st s.line.score) ((s.withLine l).withQuery q) ∧
      l.standing = st ∧ l.score = s.line.score ∧ l.activity = s.line.activity ∧ l.cycle = s.line.cycle ∧
      (st = .withdrawn → l.emptied = l) ∧ (PlacesInv s.line → PlacesInv l) ∧ (QueryInv s.query → QueryInv q) := by
  obtain ⟨l, q, h, hst, hsc, hact, hcy, hw, hnw⟩ := enterStanding_spec st s
  refine ⟨l, q, h, hst, hsc, hact, hcy, fun hs => ?_, fun hp => ?_, fun hq => ?_⟩
  · obtain ⟨hl, -⟩ := hw hs
    rw [hl]; rfl
  · by_cases hs : st = .withdrawn
    · obtain ⟨hl, -⟩ := hw hs
      rw [hl]
      exact ⟨by simp [LineInterface.emptied], by simp [LineInterface.emptied], by simp [LineInterface.emptied],
        by simp [LineInterface.emptied]⟩
    · obtain ⟨hl, -⟩ := hnw hs
      rw [hl]; exact hp
  · by_cases hs : st = .withdrawn
    · obtain ⟨-, hq'⟩ := hw hs
      rw [hq']
      exact ⟨hq.1, by simp, by simp⟩
    · obtain ⟨-, hq'⟩ := hnw hs
      rw [hq']; exact hq

/-- A changed score is evaluated: the new standing's band holds it. -/
theorem lineInv_settled (joined : Bool) {n : Nat} {s : State} (h : LineInv s) (hmax : n ≤ 255) (hup : n ≤ s.line.score + 8)
    (hfault : s.line.standing = .strapFault → n = 0)
    (hsend : ∀ sd, s.line.activity = .sending sd → n ≤ s.line.score) :
    LineInv (settleStanding joined (s.withLine { s.line with score := n })) := by
  obtain ⟨⟨-, hband⟩, ⟨hwait, hspeak⟩, hplaces, hstrap, hcycle⟩ := (lineInv_iff s).mp h
  have hnew := band_nextStanding joined hband hup hfault
  rcases settleStanding_spec joined (s.withLine { s.line with score := n }) with ⟨hstay, h'⟩ | ⟨hgo, h'⟩ <;> rw [h']
  · simp only [State.withLine_line] at hstay
    rw [lineInv_iff]
    exact ⟨⟨hmax, hstay ▸ hnew⟩, ⟨hwait, hspeak⟩, fun hst => by
      have hempty := (emptied_eq_iff _).mp (hplaces hst)
      exact (emptied_eq_iff _).mpr hempty, hstrap, hcycle⟩
  · obtain ⟨l, q, hent, hst, hsc, hact, hcy, hempty, -, -⟩ :=
      enterStanding_line (nextStanding joined n s.line.standing) (s.withLine { s.line with score := n })
    simp only [State.withLine_line] at hgo hsc hact hcy ⊢
    have hne : s.line.standing ≠ .strapFault := fun hf => hgo (by rw [hf]; rfl)
    have hne' : l.standing ≠ .strapFault := by
      rw [hst, Ne, nextStanding_eq_strapFault_iff]; exact hne
    rw [hent, lineInv_iff]
    simp only [writeNote_spec, ringWrite_line, ringWrite_straps, State.withQuery_line, State.withQuery_straps,
      State.withLine_line, State.withLine_straps]
    refine ⟨⟨hsc ▸ hmax, by rw [hst, hsc]; exact hnew⟩, ⟨fun hf => absurd hf hne', fun sd hsd => ?_⟩,
      fun hw => hempty ?_, iff_of_false hne' fun hs => hne (hstrap.mpr hs), hcy ▸ hcycle⟩
    · rw [hst]
      rw [hact] at hsd
      exact nextStanding_speaks joined hband (hsend sd hsd) (hspeak sd hsd)
    · rcases hw with hw | hw
      · exact hst ▸ hw
      · exact absurd hw hne'

/-- Beside the line an evaluated score changes the pending queries and, by its note, the ring. -/
theorem settled_keeps (joined : Bool) (n : Nat) (s : State)
    (hline : LineInv s → LineInv (settleStanding joined (s.withLine { s.line with score := n }))) :
    Keeps s (settleStanding joined (s.withLine { s.line with score := n })) := by
  rcases settleStanding_spec joined (s.withLine { s.line with score := n }) with ⟨-, h⟩ | ⟨-, h⟩ <;> rw [h] at hline ⊢
  · exact keeps_withLine hline id
  · obtain ⟨l, q, hent, -, -, -, -, -, hp, hq⟩ :=
      enterStanding_line (nextStanding joined n s.line.standing) (s.withLine { s.line with score := n })
    simp only [State.withLine_line, State.withLine_query, State.withLine_withLine] at hent hline hp hq ⊢
    rw [hent] at hline ⊢
    have hmid : Keeps s ((s.withLine l).withQuery q) :=
      .trans (t := s.withLine l) (keeps_withLine (fun hs => hline hs) hp) (keeps_withQuery hq)
    exact hmid.trans (writeNote_keeps _ _)

theorem lowerScore_keeps (joined : Bool) (s : State) : Keeps s (lowerScore joined s) := by
  refine settled_keeps joined _ s fun h => ?_
  obtain ⟨⟨hmax, hband⟩, -⟩ := (lineInv_iff s).mp h
  refine lineInv_settled joined h (by omega) (by omega) (fun hf => ?_) fun _ _ => by omega
  rw [hf] at hband
  simp only [Band] at hband
  omega

/-- A rise by 8 at most, of a node that is not sending. -/
theorem raiseScore_keeps {n : Nat} (joined : Bool) {s : State} (hn : n ≤ 8) (hfault : s.line.standing ≠ .strapFault)
    (hsend : ∀ sd, s.line.activity ≠ .sending sd) : Keeps s (raiseScore n joined s) :=
  settled_keeps joined _ s fun h => lineInv_settled joined h (by omega) (by omega) (fun hf => absurd hf hfault)
    fun sd hsd => absurd hsd (hsend sd)

theorem settleStanding_keeps (joined : Bool) (s : State) : Keeps s (settleStanding joined s) := by
  refine settled_keeps joined s.line.score s fun h => ?_
  obtain ⟨⟨hmax, hband⟩, -⟩ := (lineInv_iff s).mp h
  refine lineInv_settled joined h hmax (by omega) (fun hf => ?_) fun _ _ => le_rfl
  rw [hf] at hband
  exact hband

/-! ## Reception -/

theorem standing_of_running {s : State} (h : s.running = true) : s.line.standing ≠ .strapFault := by
  intro hf
  simp [State.running, hf] at h

theorem afterPacket_activity {l : LineInterface} {sd : Send} (h : l.afterPacket.activity = .sending sd) :
    l.activity = .sending sd := by
  rcases afterPacket_spec l with ⟨-, h'⟩ | ⟨-, h'⟩ <;> rw [h'] at h
  · exact h
  · cases h

theorem afterPacket_standing (l : LineInterface) : l.afterPacket.standing = l.standing := by
  rcases afterPacket_spec l with ⟨-, h⟩ | ⟨-, h⟩ <;> rw [h]

theorem endReception_keeps (s : State) : Keeps s (endReception s) := by
  unfold endReception
  refine keeps_activity ?_ (fun _ hw => ?_) fun sd hsd => .inr ⟨sd, afterPacket_activity hsd⟩
  · rcases afterPacket_spec s.line with ⟨-, h⟩ | ⟨-, h⟩ <;> rw [h]
  · rcases afterPacket_spec s.line with ⟨-, h⟩ | ⟨-, h⟩ <;> simp only [h]
    exact hw

/-- A packet handed over keeps what its owner keeps; the own number's is taken only while the node does not send. -/
theorem handOver_keeps {src : Station} {owner : Option HutTime → State → State} {s : State}
    (hrun : s.running = true) (hown : src = s.straps.station → ∀ sd, s.line.activity ≠ .sending sd)
    (howner : Keeps (heard src (endReception s)) (owner s.receiveCapture (heard src (endReception s)))) :
    Keeps s (handOver src owner s) := by
  rcases handOver_spec src owner s with ⟨hsrc, h⟩ | ⟨-, h⟩ <;> rw [h]
  · refine (endReception_keeps s).trans (.trans (keeps_withConditions _) (raiseScore_keeps true le_rfl ?_ ?_))
    · show s.line.afterPacket.standing ≠ .strapFault
      rw [afterPacket_standing]
      exact standing_of_running hrun
    · exact fun sd hsd => hown hsrc sd (afterPacket_activity hsd)
  · exact (((endReception_keeps s).trans (heard_keeps src _)).trans howner).trans (lowerScore_keeps true _)

theorem receivePacket_keeps {src : Station} {owner : Option HutTime → State → State} {s : State}
    (howner : Keeps (heard src (endReception s)) (owner s.receiveCapture (heard src (endReception s)))) :
    Keeps s (receivePacket src owner s) := by
  rcases receivePacket_spec src owner s with ⟨-, h⟩ | ⟨htakes, h⟩ <;> rw [h]
  · exact .refl s
  · obtain ⟨hrun, hact⟩ := (takesPackets_iff s).mp htakes
    refine handOver_keeps hrun (fun _ sd hsd => ?_) howner
    rcases hact with hact | ⟨c, hact⟩ <;> rw [hact] at hsd <;> cases hsd

theorem receiveAskPacket_keeps {src : Station} {owner : Option HutTime → State → State} {s : State}
    (howner : Keeps (heard src (endReception s)) (owner s.receiveCapture (heard src (endReception s)))) :
    Keeps s (receiveAskPacket src owner s) := by
  rcases receiveAskPacket_spec src owner s with ⟨-, h⟩ | ⟨htakes, h⟩ <;> rw [h]
  · exact .refl s
  · rcases (takesAsk_iff src s).mp htakes with htakes | ⟨hrun, hne, -⟩
    · obtain ⟨hrun, hact⟩ := (takesPackets_iff s).mp htakes
      refine handOver_keeps hrun (fun _ sd hsd => ?_) howner
      rcases hact with hact | ⟨c, hact⟩ <;> rw [hact] at hsd <;> cases hsd
    · exact handOver_keeps hrun (fun hsrc => absurd hsrc hne) howner

/-- An ASK keeps what carrying it out keeps. -/
theorem receiveAsk_keeps {a : Ask} {code : Byte} {ok : Bool} {carry : State → State} {s : State}
    (hcarry : ∀ t, Keeps t (carry t)) : Keeps s (receiveAsk a code ok carry s) := by
  obtain ⟨owner, h, howner⟩ := receiveAsk_spec a code ok carry s
  rw [h]
  refine receiveAskPacket_keeps ?_
  rcases howner s.receiveCapture (heard a.source (endReception s)) with ⟨-, h⟩ | ⟨-, -, h⟩ | ⟨-, -, h⟩ <;> rw [h]
  · exact .refl _
  · exact offerReply_keeps _ _
  · exact hcarry _

end Sys2Proof.Keeping

/-! The hut clock, the sample port and the correction store under their own operations. -/

namespace Sys2Proof.Keeping

open Sys2Proof.Machine

/-! ## The hut clock -/

/-- Hut time moved by any count is a hut time: the seconds count wraps, the tick count is a remainder (R39). -/
theorem add_wf (t : HutTime) (c : Int) : (t.add c).wf = true :=
  decide_eq_true (Nat.mod_lt _ (Nat.succ_pos 9999999))

/-- What `ClockInv` says of the clock of a node of a role. -/
def ClockOk (r : Role) (k : HutClock) : Prop :=
  k.time.wf = true ∧ k.accumulator.natAbs < 1000000000 ∧ k.rateTrim.natAbs ≤ 50000 ∧ k.slew.natAbs ≤ 50000 ∧
    k.grade ≤ 7 ∧ k.markSeq.toNat ≤ 254 ∧ k.ppsSamples.length ≤ 8 ∧ k.ppsAge ≤ 20000000 ∧
    (k.refLocked = true → r = .clock) ∧ (k.timeState = .unset → k.rateTrim = 0 ∧ k.slew = 0)

theorem clockInv_iff (s : State) : ClockInv s ↔ ClockOk s.straps.role s.clock := Iff.rfl

theorem keeps_clock {s : State} {k : HutClock} (h : ClockOk s.straps.role s.clock → ClockOk s.straps.role k) :
    Keeps s (s.withClock k) :=
  keeps_withClock fun hs => (clockInv_iff _).mpr (h ((clockInv_iff s).mp hs))

theorem natAbs_clampInt_le {b : Nat} (x : Int) : (clampInt (-(b : Int)) b x).natAbs ≤ b := by
  unfold clampInt
  split_ifs <;> omega

theorem remainderOf_natAbs_lt {a : Int} (h : a.natAbs < 2000000000) : (remainderOf a).natAbs < 1000000000 := by
  have hlimit : accumulatorLimit = 1000000000 := rfl
  unfold remainderOf
  split_ifs <;> omega

theorem keeps_edge (s : State) : Keeps s (s.withClock s.clock.edge) := by
  refine keeps_clock fun ⟨_, hacc, htrim, hslew, hgrade, hseq, hpps, _, hlock, hunset⟩ => ?_
  unfold ClockOk HutClock.edge
  dsimp only
  refine ⟨add_wf _ _, remainderOf_natAbs_lt ?_, htrim, hslew, hgrade, hseq, hpps, ?_, hlock, hunset⟩
  · simp only [HutClock.trim]; omega
  · have hlimit : ppsAgeLimit = 20000000 := rfl
    split_ifs <;> omega

theorem nextMarkSeq_le (q : BitVec 8) : (nextMarkSeq q).toNat ≤ 254 := by
  unfold nextMarkSeq
  split_ifs
  · decide
  · bv_omega

theorem offerOwnMark_keeps (s : State) : Keeps s (offerOwnMark s) := by
  refine .trans (.trans (keeps_withDue _) (keeps_clock ?_)) (offerMark_keeps _ _)
  exact fun ⟨hwf, hacc, htrim, hslew, hgrade, _, hpps, hage, hlock, hunset⟩ =>
    ⟨hwf, hacc, htrim, hslew, hgrade, nextMarkSeq_le _, hpps, hage, hlock, hunset⟩

theorem role_of_followsReference {s : State} (h : followsReference s = true) : s.straps.role = .clock := by
  simp only [followsReference, Bool.and_eq_true, decide_eq_true_eq] at h
  exact h.2

theorem changeLock_keeps (active : Bool) (s : State) : Keeps s (changeLock active s) := by
  unfold changeLock
  refine .ite (fun h => .trans (keeps_withPins _) (keeps_clock ?_)) fun _ => keeps_withPins _
  exact fun ⟨hwf, hacc, htrim, hslew, hgrade, hseq, hpps, hage, _, hunset⟩ =>
    ⟨hwf, hacc, htrim, hslew, hgrade, hseq, hpps, hage, fun _ => role_of_followsReference h, hunset⟩

theorem ppsAgeExpiry_keeps (s : State) : Keeps s (s.withClock { s.clock with refLocked := false }) :=
  keeps_clock fun ⟨hwf, hacc, htrim, hslew, hgrade, hseq, hpps, hage, _, hunset⟩ =>
    ⟨hwf, hacc, htrim, hslew, hgrade, hseq, hpps, hage, fun h => (Bool.false_ne_true h).elim, hunset⟩

theorem addPpsSample_length_le (d : Int) {l : List Int} (h : l.length ≤ 8) : (addPpsSample d l).length ≤ 8 := by
  have hcap : ppsCapacity = 8 := rfl
  unfold addPpsSample
  split_ifs <;> simp <;> omega

theorem takePps_keeps (s : State) : Keeps s (takePps s) := by
  unfold takePps
  refine .ite (fun h => .ite (fun _ => keeps_clock ?_) fun _ => keeps_clock ?_) fun _ => .refl s
  · exact fun ⟨hwf, hacc, htrim, hslew, hgrade, hseq, hpps, _, _, hunset⟩ =>
      ⟨hwf, hacc, htrim, hslew, hgrade, hseq, addPpsSample_length_le _ hpps, Nat.zero_le _,
        fun _ => role_of_followsReference h, hunset⟩
  · exact fun ⟨hwf, hacc, htrim, hslew, hgrade, hseq, hpps, _, hlock, hunset⟩ =>
      ⟨hwf, hacc, htrim, hslew, hgrade, hseq, hpps, Nat.zero_le _, hlock, hunset⟩

theorem keepOwnMark_keeps (sd : Send) (s : State) : Keeps s (keepOwnMark sd s) := by
  unfold keepOwnMark
  split
  · exact keeps_clock id
  · exact .refl s

/-! ## The agreement engine's part of the clock -/

theorem roundGrade_le (s : State) : roundGrade s ≤ 7 := by
  unfold roundGrade
  split
  · exact Nat.zero_le _
  · exact Nat.min_le_left _ _
  · exact le_rfl

theorem roundWrites_keeps (s : State) : Keeps s (roundWrites s) := by
  refine .trans (.trans (keeps_clock ?_) (keeps_withEngine _)) (keeps_withDue _)
  exact fun ⟨hwf, hacc, htrim, hslew, _, hseq, hpps, hage, hlock, _⟩ =>
    ⟨hwf, hacc, htrim, hslew, roundGrade_le s, hseq, hpps, hage, hlock, nofun⟩

theorem beginRound_keeps (s : State) : Keeps s (beginRound s) := by
  refine .trans (.trans (keeps_withEngine _) (keeps_clock ?_)) (keeps_mapPeers_same fun _ => rfl)
  exact fun ⟨hwf, hacc, htrim, hslew, hgrade, hseq, _, hage, hlock, hunset⟩ =>
    ⟨hwf, hacc, htrim, hslew, hgrade, hseq, Nat.zero_le _, hage, hlock, hunset⟩

/-- A step leaves no slew, and the rate trim as it was. -/
theorem keeps_stepped (c : Int) (s : State) : Keeps s (s.withClock (s.clock.stepped c)) := by
  refine keeps_clock fun ⟨_, _, htrim, _, hgrade, hseq, _, hage, hlock, hunset⟩ => ?_
  unfold ClockOk HutClock.stepped
  dsimp only
  exact ⟨add_wf _ _, by decide, htrim, by decide, hgrade, hseq, Nat.zero_le _, hage, hlock, fun h => ⟨(hunset h).1, rfl⟩⟩

/-- A round's slew and rate trim are held within their limits (R42), and a SET node may have any. -/
theorem keeps_slewed {s : State} {x r : Int} (hset : s.clock.timeState = .set) (hx : x.natAbs ≤ 50000)
    (hr : s.clock.rateTrim.natAbs ≤ 50000 → r.natAbs ≤ 50000) :
    Keeps s (s.withClock { s.clock with slew := x, rateTrim := r }) :=
  keeps_clock fun ⟨hwf, hacc, htrim, _, hgrade, hseq, hpps, hage, hlock, _⟩ =>
    ⟨hwf, hacc, hr htrim, hx, hgrade, hseq, hpps, hage, hlock, fun h => by
      simp only [hset] at h; cases h⟩

theorem roundOrder_slew_bounds {s : State} {x r : Int} (h : roundOrder s = .slew x r) :
    x.natAbs ≤ 50000 ∧ (s.clock.rateTrim.natAbs ≤ 50000 → r.natAbs ≤ 50000) := by
  unfold roundOrder at h
  dsimp only at h
  split at h
  · split at h
    · obtain ⟨rfl, rfl⟩ := RoundOrder.slew.inj h
      exact ⟨by decide, id⟩
    · cases h
  · split at h
    · obtain ⟨rfl, rfl⟩ := RoundOrder.slew.inj h
      exact ⟨by decide, id⟩
    · split at h
      · cases h
      · obtain ⟨rfl, rfl⟩ := RoundOrder.slew.inj h
        exact ⟨natAbs_clampInt_le (b := 50000) _, fun _ => natAbs_clampInt_le (b := 50000) _⟩

/-! ## The sample port -/

theorem increasing_cons_cons (a b : HutTime) (l : List HutTime) :
    increasing (a :: b :: l) = (b.later a && increasing (b :: l)) := rfl

theorem increasing_tail {l : List HutTime} (h : increasing l = true) : increasing l.tail = true := by
  match l, h with
  | [], _ => rfl
  | [_], _ => rfl
  | _ :: _ :: _, h => exact (Bool.and_eq_true_iff.mp h).2

/-- A list of rising times goes on with one that is later than its last. -/
theorem increasing_append {l : List HutTime} {t : HutTime} (h : increasing l = true)
    (ht : ∀ x, l.getLast? = some x → t.later x = true) : increasing (l ++ [t]) = true := by
  induction l with
  | nil => rfl
  | cons a rest ih =>
    cases rest with
    | nil => simpa [increasing] using ht a rfl
    | cons b rest =>
      rw [increasing_cons_cons, Bool.and_eq_true_iff] at h
      rw [List.cons_append, List.cons_append, increasing_cons_cons, Bool.and_eq_true_iff]
      exact ⟨h.1, ih h.2 fun x hx => ht x (by rwa [List.getLast?_cons_cons])⟩

theorem mergeTemps_length (words last : List (Option Int)) :
    (mergeTemps words last).length = min last.length words.length := by
  simp [mergeTemps]

theorem wordsPerSet_pos (r : Role) : 0 < wordsPerSet r := by cases r <;> decide

theorem push_words_length (o : OpenSet) (bit : Bool) :
    (o.push bit).words.length = if o.bits + 1 = 24 then o.words.length + 1 else o.words.length := by
  unfold OpenSet.push
  dsimp only
  split_ifs <;> simp

theorem push_bits_lt {o : OpenSet} (bit : Bool) (h : o.bits < 24) : (o.push bit).bits < 24 := by
  unfold OpenSet.push
  dsimp only
  split_ifs <;> dsimp only <;> omega

theorem keeps_syncOpen (s : State) (t : HutTime) :
    Keeps s (s.withPort { s.port with openSet := some ⟨t, [], 0, 0#24⟩ }) :=
  keeps_withPort fun ⟨hlen, hrise, htemps, hsets, _⟩ =>
    ⟨hlen, hrise, htemps, hsets, fun o ho => by
      obtain rfl := Option.some.inj ho
      exact ⟨wordsPerSet_pos _, Nat.succ_pos 23⟩⟩

theorem keeps_port_cleared (s : State) : Keeps s (s.withPort { s.port with openSet := none, history := [] }) :=
  keeps_withPort fun ⟨_, _, htemps, _, _⟩ => ⟨Nat.zero_le _, rfl, htemps, nofun, nofun⟩

theorem takeSync_keeps (s : State) : Keeps s (takeSync s) := by
  unfold takeSync
  exact .ite (fun _ => (keeps_syncOpen s _).trans (keeps_withConditions _)) fun _ => .refl s

/-- The history keeps its order and its bound when a set that passes the order check enters it. -/
theorem enterHistory_spec {x : SampleSet} {h : List SampleSet} (hlen : h.length ≤ 8)
    (hrise : increasing (h.map SampleSet.capture) = true) (hpass : passesOrder x.capture h = true) :
    (enterHistory x h).length ≤ 8 ∧ increasing ((enterHistory x h).map SampleSet.capture) = true ∧
      ∀ y ∈ enterHistory x h, y = x ∨ y ∈ h := by
  have hcap : historyCapacity = 8 := rfl
  have hlast : ∀ t, (h.map SampleSet.capture).getLast? = some t → x.capture.later t = true := by
    intro t ht
    rw [List.getLast?_map] at ht
    obtain ⟨y, hy, rfl⟩ := Option.map_eq_some_iff.mp ht
    simpa [passesOrder, hy] using hpass
  unfold enterHistory
  split
  · refine ⟨by simp; omega, ?_, fun y hy => ?_⟩
    · rw [List.map_append]
      exact increasing_append hrise hlast
    · rcases List.mem_append.mp hy with hy | hy
      · exact .inr hy
      · exact .inl (List.mem_singleton.mp hy)
  · refine ⟨by simp; omega, ?_, fun y hy => ?_⟩
    · rw [List.map_append, List.map_tail]
      refine increasing_append (increasing_tail hrise) fun t ht => hlast t ?_
      cases hm : h.map SampleSet.capture with
      | nil => rw [hm] at ht; cases ht
      | cons a rest =>
        rw [hm, List.tail_cons] at ht
        cases rest with
        | nil => cases ht
        | cons b rest => rwa [List.getLast?_cons_cons]
    · rcases List.mem_append.mp hy with hy | hy
      · exact .inr (List.mem_of_mem_tail hy)
      · exact .inl (List.mem_singleton.mp hy)

/-- A complete set has the role's channels. -/
theorem decodeSet_lengths {r : Role} {last : List (Option Int)} {o : OpenSet} (hwords : o.words.length = wordsPerSet r)
    (hlast : last.length = tempChannels r) :
    (decodeSet r last o).fields.length = fieldChannels r ∧ (decodeSet r last o).temps.length = tempChannels r := by
  simp only [decodeSet, List.length_map, List.length_take, mergeTemps_length, List.length_drop, hlast, hwords, wordsPerSet]
  omega

/-! ## The correction store -/

theorem setShape_default (r : Role) : SetShape r (defaultSet r) := by
  refine ⟨by simp [defaultSet], fun ch hch => ?_⟩
  rw [List.eq_of_mem_replicate hch]; rfl

theorem pointsRise_default (r : Role) : PointsRise (defaultSet r) := by
  intro ch hch
  rw [List.eq_of_mem_replicate hch]
  exact .nil

theorem setShape_replacePart {r : Role} {set : CorrectionSet} (addr : PartAddress) (content : PartContent)
    (h : SetShape r set) : SetShape r (replacePart set addr content) := by
  obtain ⟨hlen, hpoints⟩ := h
  unfold replacePart
  split <;> try exact ⟨hlen, hpoints⟩
  · exact ⟨by simpa using hlen, forall_mem_modify hpoints fun ch hch => hpoints ch (List.mem_of_getElem? hch)⟩
  · refine ⟨by simpa using hlen, forall_mem_modify hpoints fun ch hch => ?_⟩
    rw [List.length_set]
    exact hpoints ch (List.mem_of_getElem? hch)

theorem nextEdition_ne_zero (e : BitVec 16) : nextEdition e ≠ 0#16 := by
  unfold nextEdition
  split_ifs
  · decide
  · bv_omega

/-- Points in disorder: the first slot whose temperature is not above the one before it, counted from `slot` for the
second point (R92). -/
theorem firstDisorder_spec (slot : Nat) (pts : List Point) :
    (firstDisorder slot pts = none ↔ (pts.map Point.temp).Pairwise (· < ·)) ∧
      ∀ k, firstDisorder slot pts = some k → ∃ i x y, k = slot + i ∧ pts[i]? = some x ∧ pts[i + 1]? = some y ∧
        y.temp ≤ x.temp ∧ ∀ j x y, j < i → pts[j]? = some x → pts[j + 1]? = some y → x.temp < y.temp := by
  induction pts generalizing slot with
  | nil => simp [firstDisorder]
  | cons p rest ih =>
    cases rest with
    | nil => simp [firstDisorder]
    | cons q rest =>
      obtain ⟨hnone, hsome⟩ := ih (slot + 1)
      rw [← List.isChain_iff_pairwise] at hnone ⊢
      simp only [List.map_cons, List.isChain_cons_cons] at hnone ⊢
      rw [firstDisorder]
      split
      · next hle =>
        refine ⟨iff_of_false nofun fun h => absurd h.1 (by omega), fun k hk => ?_⟩
        obtain rfl := Option.some.inj hk
        exact ⟨0, p, q, rfl, rfl, rfl, hle, fun j _ _ hj => absurd hj (Nat.not_lt_zero j)⟩
      · next hlt =>
        refine ⟨by rw [hnone, and_iff_right (by omega)], fun k hk => ?_⟩
        obtain ⟨i, x, y, rfl, hx, hy, hle, hbefore⟩ := hsome k hk
        refine ⟨i + 1, x, y, by omega, hx, hy, hle, fun j a b hj ha hb => ?_⟩
        cases j with
        | zero =>
          obtain rfl := Option.some.inj ha
          obtain rfl := Option.some.inj hb
          omega
        | succ j => exact hbefore j a b (by omega) ha hb

/-- The first channel that fails validation, counted from `n` (R92). -/
theorem firstFault_spec (n : Nat) (chs : List Channel) :
    (firstFault n chs = none ↔ ∀ ch ∈ chs, ((ch.points.take ch.base.pointCount).map Point.temp).Pairwise (· < ·)) ∧
      ∀ f, firstFault n chs = some f → ∃ i ch k, f = (n + i, k) ∧ chs[i]? = some ch ∧
        firstDisorder 2 (ch.points.take ch.base.pointCount) = some k ∧
        ∀ m d, m < i → chs[m]? = some d → ((d.points.take d.base.pointCount).map Point.temp).Pairwise (· < ·) := by
  induction chs generalizing n with
  | nil => simp [firstFault]
  | cons ch rest ih =>
    obtain ⟨hnone, hsome⟩ := ih (n + 1)
    have hch := (firstDisorder_spec 2 (ch.points.take ch.base.pointCount)).1
    rw [firstFault]
    split
    · next k hk =>
      refine ⟨iff_of_false nofun fun h => ?_, fun f hf => ?_⟩
      · rw [hch.mpr (h ch (.head _))] at hk; cases hk
      · obtain rfl := Option.some.inj hf
        exact ⟨0, ch, k, rfl, rfl, hk, fun m _ hm => absurd hm (Nat.not_lt_zero m)⟩
    · next hk =>
      refine ⟨by rw [hnone, List.forall_mem_cons, and_iff_right (hch.mp hk)], fun f hf => ?_⟩
      obtain ⟨i, d, k, rfl, hd, hdk, hbefore⟩ := hsome f hf
      refine ⟨i + 1, d, k, by rw [show n + 1 + i = n + (i + 1) by omega], hd, hdk, fun m x hm hx => ?_⟩
      cases m with
      | zero =>
        obtain rfl := Option.some.inj hx
        exact hch.mp hk
      | succ m => exact hbefore m x (by omega) hx

theorem storeRefuses_iff (r : Role) : storeRefuses r = true ↔ r = .thermal ∨ r = .clock := by
  cases r <;> simp [storeRefuses, fieldChannels]

theorem fields_of_not_storeRefuses {r : Role} (h : ¬ storeRefuses r = true) : ¬ (r = .thermal ∨ r = .clock) :=
  fun hr => h ((storeRefuses_iff r).mpr hr)

theorem keeps_tableWrite (own : Station) (ops : List Byte) (s : State) :
    Keeps s (s.withStore (tableWriteOutcome s.straps.role own s.store ops).2) := by
  unfold tableWriteOutcome
  split
  · exact .refl s
  · next hfields =>
    split
    · exact .refl s
    · split
      · exact .refl s
      · split
        · exact .refl s
        · next addr content _ =>
          refine keeps_withStore fun ⟨hrole, hact, hrise, hdef, hpend, hout, _⟩ => ?_
          refine ⟨hrole, hact, hrise, hdef, fun p hp => ?_, hout, fun hr => absurd hr (fields_of_not_storeRefuses hfields)⟩
          obtain rfl := Option.some.inj hp
          refine ⟨setShape_replacePart _ _ ?_, nextEdition_ne_zero _, nofun⟩
          split
          · next p hp => exact (hpend p hp).1
          · exact hact

theorem keeps_tableCommit (edition : BitVec 16) (s : State) :
    Keeps s (s.withStore (commitOutcome s.straps.role s.store edition).2.2) := by
  unfold commitOutcome
  split
  · exact .refl s
  · next hfields =>
    split
    · exact .refl s
    · next p hp =>
      split
      · exact .refl s
      · split
        · exact .refl s
        · split
          · exact .refl s
          · next hfault =>
            refine keeps_withStore fun ⟨hrole, hact, hrise, hdef, hpend, hout, _⟩ => ?_
            refine ⟨hrole, hact, hrise, hdef, fun q hq => ?_, hout, fun hr => absurd hr (fields_of_not_storeRefuses hfields)⟩
            obtain rfl := Option.some.inj hq
            obtain ⟨hshape, hedition, -⟩ := hpend p hp
            exact ⟨hshape, hedition, fun _ => (firstFault_spec 1 _).1.mp hfault⟩

theorem keeps_tableDiscard (s : State) : Keeps s (s.withStore (discardOutcome s.straps.role s.store).2) := by
  unfold discardOutcome
  split
  · exact .refl s
  · split
    · exact .refl s
    · split
      · exact .refl s
      · refine keeps_withStore fun ⟨hrole, hact, hrise, hdef, _, hout, hnone⟩ => ?_
        exact ⟨hrole, hact, hrise, hdef, nofun, hout, fun hr => ⟨(hnone hr).1, rfl, (hnone hr).2.2⟩⟩

theorem keeps_withoutOutgoing (s : State) : Keeps s (s.withStore { s.store with outgoing := none }) :=
  keeps_withStore fun ⟨hrole, hact, hrise, hdef, hpend, _, hnone⟩ =>
    ⟨hrole, hact, hrise, hdef, hpend, nofun, fun hr => ⟨(hnone hr).1, (hnone hr).2.1, rfl⟩⟩

/-- The set that becomes active at a promotion was validated when it was committed. -/
theorem keeps_promoted {s : State} {p : PendingSet} (hp : s.store.pendingSet = some p) (hsched : p.scheduled = true) :
    Keeps s (s.withStore (s.store.promoted s.straps.role p)) := by
  refine keeps_withStore fun ⟨_, hact, hrise, _, hpend, _, hnone⟩ => ?_
  obtain ⟨hshape, hedition, hvalid⟩ := hpend p hp
  refine ⟨rfl, hshape, hvalid hsched, fun h => absurd h hedition, nofun, fun o ho => ?_, fun hr => ?_⟩
  · obtain rfl := Option.some.inj ho
    exact ⟨hact, hrise⟩
  · have := (hnone hr).2.1
    rw [hp] at this; cases this

end Sys2Proof.Keeping

/-! The assembler: its queue between opening and release, and what the release of entries does to the other blocks. -/

namespace Sys2Proof.Keeping

open Sys2Proof.Machine

/-! ## The storm detector -/

theorem handStorm_keeps (event : Option Bool) (s : State) : Keeps s (handStorm event s) := by
  cases event with
  | none => exact .refl s
  | some b => exact setOwnStorm_keeps b s

theorem stormRecord_keeps (slots : List (Option Int)) (s : State) : Keeps s (stormRecord slots s) := by
  unfold stormRecord
  split
  · exact .refl s
  · dsimp only
    split
    · exact keeps_withAssembler rfl rfl
    · split
      · exact keeps_withAssembler rfl rfl
      · exact (keeps_withAssembler (by rfl) (by rfl)).trans (handStorm_keeps _ _)

theorem stormPromotion_keeps (s : State) : Keeps s (stormPromotion s) := by
  unfold stormPromotion
  refine .ite (fun _ => .ite (fun _ => ?_) fun _ => keeps_withAssembler rfl rfl) fun _ => .refl s
  exact (keeps_withAssembler (by rfl) (by rfl)).trans (setOwnStorm_keeps _ _)

/-! ## Release -/

theorem afterBase_keeps (c : Closed) (r : Record) (s : State) : Keeps s (afterBase c r s) := by
  have hobs : Keeps s (offerObs (.record r) (stormRecord c.slots s)) :=
    (stormRecord_keeps c.slots s).trans (offerObs_keeps _ _ nofun)
  unfold afterBase
  cases s.straps.role with
  | vector => exact hobs
  | scalar => exact hobs
  | thermal => exact offerTemp_keeps _ s
  | clock => exact .refl s

theorem dropOutgoing_keeps (released : BitVec 16) (rest : List Entry) (s : State) :
    Keeps s (dropOutgoing released rest s) := by
  unfold dropOutgoing
  split
  · exact .ite (fun _ => keeps_withoutOutgoing s) fun _ => .refl s
  · exact .refl s

/-- The release of one entry, from the state whose queue has lost it. -/
theorem keeps_released (e : Entry) (c : Closed) (rest : List Entry) (s : State) :
    Keeps (s.withAssembler { s.assembler with queue := rest }) (releaseOne e c rest s) := by
  unfold releaseOne
  refine .trans ?_ (dropOutgoing_keeps _ _ _)
  refine .ite (fun _ => ?_) fun _ => ringWrite_keeps _ _
  exact (ringWrite_keeps _ _).trans (afterBase_keeps _ _ _)

theorem releaseFrom_keepsBlocks (q : List Entry) : ∀ s : State, KeepsBlocks s (releaseFrom q s) := by
  induction q with
  | nil => exact fun s => (Keeps.refl s).toKeepsBlocks
  | cons e rest ih =>
    intro s
    unfold releaseFrom
    split
    · exact (Keeps.refl s).toKeepsBlocks
    · next c _ =>
      exact ((keepsBlocks_withAssembler _).trans (keeps_released e c rest s).toKeepsBlocks).trans (ih _)

theorem closeAndRelease_keepsBlocks (due : Entry → Bool) (cause : CloseCause) (s : State) :
    KeepsBlocks s (closeAndRelease due cause s) :=
  (keepsBlocks_withAssembler _).trans (releaseFrom_keepsBlocks _ _)

/-! ## The queue -/

/-- What the assembler's invariant reads of two states is the same but for the queue. -/
def SameFrame (s t : State) : Prop := t.assembler.lastOpened = s.assembler.lastOpened ∧ t.straps = s.straps

theorem stormRecord_queue (slots : List (Option Int)) (s : State) :
    (stormRecord slots s).assembler.queue = s.assembler.queue ∧ SameFrame s (stormRecord slots s) := by
  rw [stormRecord_frame]; exact ⟨rfl, rfl, rfl⟩

theorem offerObs_queue (x : ObsPacket) (s : State) :
    (offerObs x s).assembler.queue = s.assembler.queue ∧ SameFrame s (offerObs x s) := by
  rcases offerObs_spec x s with ⟨-, h⟩ | ⟨-, h⟩ <;> rw [h] <;> exact ⟨rfl, rfl, rfl⟩

theorem offerTemp_queue (x : TempPacket) (s : State) :
    (offerTemp x s).assembler.queue = s.assembler.queue ∧ SameFrame s (offerTemp x s) := by
  rcases offerTemp_spec x s with ⟨-, h⟩ | ⟨-, h⟩ <;> rw [h] <;> exact ⟨rfl, rfl, rfl⟩

theorem afterBase_queue (c : Closed) (r : Record) (s : State) :
    (afterBase c r s).assembler.queue = s.assembler.queue ∧ SameFrame s (afterBase c r s) := by
  obtain ⟨hq, hl, hs⟩ := stormRecord_queue c.slots s
  obtain ⟨hq', hl', hs'⟩ := offerObs_queue (.record r) (stormRecord c.slots s)
  have hobs := And.intro (hq'.trans hq) (And.intro (hl'.trans hl) (hs'.trans hs))
  unfold afterBase
  cases s.straps.role with
  | vector => exact hobs
  | scalar => exact hobs
  | thermal => exact offerTemp_queue _ s
  | clock => exact ⟨rfl, rfl, rfl⟩

theorem dropOutgoing_queue (released : BitVec 16) (rest : List Entry) (s : State) :
    (dropOutgoing released rest s).assembler = s.assembler ∧ (dropOutgoing released rest s).straps = s.straps := by
  unfold dropOutgoing
  split
  · split <;> exact ⟨rfl, rfl⟩
  · exact ⟨rfl, rfl⟩

theorem releaseOne_queue (e : Entry) (c : Closed) (rest : List Entry) (s : State) :
    (releaseOne e c rest s).assembler.queue = rest ∧ SameFrame s (releaseOne e c rest s) := by
  unfold releaseOne SameFrame
  dsimp only
  obtain ⟨hd, hds⟩ := dropOutgoing_queue e.edition rest
    (if e.kind = .base then
      afterBase c (s.recordOf (recordContent e c))
        (ringWrite (recordContent e c) (s.withAssembler { s.assembler with queue := rest }))
      else ringWrite (recordContent e c) (s.withAssembler { s.assembler with queue := rest }))
  rw [hd, hds]
  split
  · exact afterBase_queue c _ (ringWrite (recordContent e c) (s.withAssembler { s.assembler with queue := rest }))
  · exact ⟨rfl, rfl, rfl⟩

/-- A release leaves the queue from its first open entry on (R108). -/
theorem releaseFrom_queue (q : List Entry) : ∀ s : State, s.assembler.queue = q →
    (releaseFrom q s).assembler.queue = q.dropWhile (fun e => e.closed.isSome) ∧ SameFrame s (releaseFrom q s) := by
  induction q with
  | nil => exact fun s hs => ⟨hs, rfl, rfl⟩
  | cons e rest ih =>
    intro s hs
    unfold releaseFrom
    cases hc : e.closed with
    | none => exact ⟨by simp [hc, hs], rfl, rfl⟩
    | some c =>
      obtain ⟨hq, hl, hst⟩ := releaseOne_queue e c rest s
      obtain ⟨hq', hl', hst'⟩ := ih _ hq
      exact ⟨by simpa [hc] using hq', hl'.trans hl, hst'.trans hst⟩

theorem closeAndRelease_queue (due : Entry → Bool) (cause : CloseCause) (s : State) :
    (closeAndRelease due cause s).assembler.queue =
        (s.assembler.queue.map fun e => if due e then closeEntry s cause e else e).dropWhile (fun e => e.closed.isSome) ∧
      SameFrame s (closeAndRelease due cause s) :=
  releaseFrom_queue _ (s.withAssembler _) rfl

/-! ## The assembler's invariant -/

/-- A queue ready for release: what the assembler's invariant asks of it but for an open head. -/
def QueueReady (r : Role) (lastOpened : Option HutTime) (q : List Entry) : Prop :=
  q.length ≤ 4 ∧ increasing (q.map Entry.instant) = true ∧
    (∀ e, q.getLast? = some e → lastOpened = some e.instant) ∧
    (∀ e ∈ q, e.closed = none → e.isComplete r = false) ∧
    (r = .thermal ∨ r = .clock → ∀ e ∈ q, e.closed ≠ none)

theorem increasing_dropWhile {p : Entry → Bool} {q : List Entry} (h : increasing (q.map Entry.instant) = true) :
    increasing ((q.dropWhile p).map Entry.instant) = true := by
  induction q with
  | nil => exact h
  | cons e rest ih =>
    rw [List.dropWhile_cons]
    split
    · exact ih (increasing_tail h)
    · exact h

theorem getLast?_dropWhile {α : Type} {p : α → Bool} {q : List α} {e : α} (h : (q.dropWhile p).getLast? = some e) :
    q.getLast? = some e := by
  obtain ⟨front, hfront⟩ := List.dropWhile_suffix p (l := q)
  rw [← hfront, List.getLast?_append, h]; rfl

/-- The release of a ready queue leaves a sound assembler: its closed head is gone, and all of it in roles T and C. -/
theorem assemblyInv_of_released {s t : State} {q : List Entry}
    (hready : QueueReady s.straps.role s.assembler.lastOpened q)
    (hq : t.assembler.queue = q.dropWhile fun e => e.closed.isSome) (hframe : SameFrame s t) : AssemblyInv t := by
  obtain ⟨hlen, hrise, hlast, hopen, hrole⟩ := hready
  obtain ⟨hl, hs⟩ := hframe
  unfold AssemblyInv
  rw [hq, hl, hs]
  refine ⟨(List.dropWhile_suffix _).length_le.trans hlen, increasing_dropWhile hrise,
    fun e he => hlast e (getLast?_dropWhile he), fun e he => hopen e ((List.dropWhile_suffix _).subset he),
    fun e he => ?_, fun hr => ?_⟩
  · have := List.head?_dropWhile_not (fun e : Entry => e.closed.isSome) q
    rw [he] at this
    simpa using this
  · refine List.dropWhile_eq_nil_iff.mpr fun e he => ?_
    exact Option.isSome_iff_ne_none.mpr (hrole hr e he)

theorem closeEntry_instant (s : State) (cause : CloseCause) (e : Entry) : (closeEntry s cause e).instant = e.instant := by
  unfold closeEntry; split <;> rfl

theorem closeEntry_closed (s : State) (cause : CloseCause) (e : Entry) : (closeEntry s cause e).closed ≠ none := by
  unfold closeEntry
  split
  · next c hc => rw [hc]; exact nofun
  · exact nofun

/-- Closing entries keeps a queue ready; closing those that are complete makes it so. -/
theorem queueReady_closed {due : Entry → Bool} {cause : CloseCause} {s : State} (hlen : s.assembler.queue.length ≤ 4)
    (hrise : increasing (s.assembler.queue.map Entry.instant) = true)
    (hlast : ∀ e, s.assembler.queue.getLast? = some e → s.assembler.lastOpened = some e.instant)
    (hopen : ∀ e ∈ s.assembler.queue, due e = false → e.closed = none → e.isComplete s.straps.role = false)
    (hrole : s.straps.role = .thermal ∨ s.straps.role = .clock → ∀ e ∈ s.assembler.queue, due e = true ∨ e.closed ≠ none) :
    QueueReady s.straps.role s.assembler.lastOpened
      (s.assembler.queue.map fun e => if due e then closeEntry s cause e else e) := by
  have hinst (e : Entry) : (if due e then closeEntry s cause e else e).instant = e.instant := by
    split
    · exact closeEntry_instant s cause e
    · rfl
  refine ⟨by simpa using hlen, ?_, fun e he => ?_, fun e he hclosed => ?_, fun hr e he => ?_⟩
  · rw [List.map_map]
    simpa only [Function.comp_def, hinst] using hrise
  · rw [List.getLast?_map] at he
    obtain ⟨x, hx, rfl⟩ := Option.map_eq_some_iff.mp he
    rw [hinst]; exact hlast x hx
  · obtain ⟨x, hx, rfl⟩ := List.mem_map.mp he
    split at hclosed
    · exact absurd hclosed (closeEntry_closed s cause x)
    · next hdue =>
      rw [if_neg hdue]
      exact hopen x hx (by simpa using hdue) hclosed
  · obtain ⟨x, hx, rfl⟩ := List.mem_map.mp he
    split
    · exact closeEntry_closed s cause x
    · next hdue => exact (hrole hr x hx).resolve_left hdue

theorem closeAndRelease_keeps (due : Entry → Bool) (cause : CloseCause) (s : State) :
    Keeps s (closeAndRelease due cause s) := by
  refine ⟨closeAndRelease_keepsBlocks due cause s, fun h => ?_⟩
  obtain ⟨hlen, hrise, hlast, hopen, -, hrole⟩ := h
  obtain ⟨hq, hframe⟩ := closeAndRelease_queue due cause s
  refine assemblyInv_of_released (queueReady_closed hlen hrise hlast (fun e he _ => hopen e he) fun hr e he => ?_) hq hframe
  rw [hrole hr] at he; cases he

theorem isComplete_of_role {r : Role} (h : r = .thermal ∨ r = .clock) (e : Entry) : e.isComplete r = true := by
  rcases h with rfl | rfl <;> rfl

/-- Changed entries, of the same instants, close complete where they can. -/
theorem closeComplete_assembly {s : State} (hlen : s.assembler.queue.length ≤ 4)
    (hrise : increasing (s.assembler.queue.map Entry.instant) = true)
    (hlast : ∀ e, s.assembler.queue.getLast? = some e → s.assembler.lastOpened = some e.instant) :
    AssemblyInv (closeComplete s) := by
  obtain ⟨hq, hframe⟩ := closeAndRelease_queue (fun e => e.isComplete s.straps.role) .complete s
  exact assemblyInv_of_released (queueReady_closed hlen hrise hlast (fun e _ hc _ => hc)
    fun hr e _ => .inl (isComplete_of_role hr e)) hq hframe

theorem closeComplete_mapped_keeps {f : Entry → Entry} (hf : ∀ e, (f e).instant = e.instant) (s : State) :
    Keeps s (closeComplete (s.withAssembler { s.assembler with queue := s.assembler.queue.map f })) := by
  refine ⟨(keepsBlocks_withAssembler _).trans (closeAndRelease_keepsBlocks _ _ _), fun h => ?_⟩
  obtain ⟨hlen, hrise, hlast, -⟩ := h
  refine closeComplete_assembly ?_ ?_ fun e he => ?_
  · simpa using hlen
  · simpa only [State.withAssembler_assembler, List.map_map, Function.comp_def, hf] using hrise
  · simp only [State.withAssembler_assembler, List.getLast?_map] at he ⊢
    obtain ⟨x, hx, rfl⟩ := Option.map_eq_some_iff.mp he
    rw [hf]; exact hlast x hx

theorem takeBracket_instant (history : List SampleSet) (b : SampleSet) (e : Entry) :
    (takeBracket history b e).instant = e.instant := by
  unfold takeBracket; split <;> rfl

theorem takeScalar_instant (station : Station) (o : ScalarObs) (e : Entry) : (takeScalar station o e).instant = e.instant := by
  unfold takeScalar; split <;> rfl

theorem setArrived_keeps (b : SampleSet) (s : State) : Keeps s (setArrived b s) := by
  unfold setArrived
  cases s.straps.role with
  | vector => exact closeComplete_mapped_keeps (takeBracket_instant _ b) s
  | scalar => exact closeComplete_mapped_keeps (takeBracket_instant _ b) s
  | thermal => exact .refl s
  | clock => exact .refl s

theorem scalarArrived_keeps (station : Station) (o : ScalarObs) (s : State) : Keeps s (scalarArrived station o s) :=
  closeComplete_mapped_keeps (takeScalar_instant station o) s

/-- An entry opens later than the newest one (R101). -/
theorem openEpoch_keeps (kind : EpochKind) (e : HutTime) (s : State) : Keeps s (openEpoch kind e s) := by
  unfold openEpoch
  refine .ite (fun ⟨hopens, hroom⟩ => ?_) fun _ => .refl s
  refine ⟨(keepsBlocks_withAssembler _).trans (closeAndRelease_keepsBlocks _ _ _), fun h => ?_⟩
  obtain ⟨hlen, hrise, hlast, -⟩ := h
  simp only [queueCapacity] at hroom
  refine closeComplete_assembly ?_ ?_ fun x hx => ?_
  · simp only [State.withAssembler_assembler, List.length_append, List.length_singleton]; omega
  · simp only [State.withAssembler_assembler, List.map_append]
    refine increasing_append hrise fun t ht => ?_
    rw [List.getLast?_map] at ht
    obtain ⟨x, hx, rfl⟩ := Option.map_eq_some_iff.mp ht
    simp only [opensFor, hlast x hx] at hopens
    exact hopens
  · simp only [State.withAssembler_assembler, List.getLast?_concat, Option.some.injEq] at hx ⊢
    rw [← hx]; rfl

theorem takeBaseEpoch_keeps (s : State) : Keeps s (takeBaseEpoch s) := by
  unfold takeBaseEpoch
  refine .ite (fun _ => ?_) fun _ => .refl s
  exact ((keeps_withDue _).trans (keeps_withAssembler (by rfl) (by rfl))).trans (openEpoch_keeps _ _ _)

theorem takeFastEpoch_keeps (s : State) : Keeps s (takeFastEpoch s) := by
  unfold takeFastEpoch
  split
  · exact .ite (fun _ => (keeps_withDue _).trans (openEpoch_keeps _ _ _)) fun _ => .refl s
  · exact .refl s

theorem expireHold_keeps (s : State) : Keeps s (expireHold s) := by
  unfold expireHold
  refine .ite (fun _ => ?_) fun _ => .refl s
  split
  · exact closeAndRelease_keeps _ _ s
  · exact .refl s

theorem assemblerStep_keeps (landing : HutTime) (s : State) : Keeps s (assemblerStep landing s) := by
  unfold assemblerStep
  exact .ite (fun _ => .refl s) fun _ => (closeAndRelease_keeps _ _ s).trans (keeps_withAssembler rfl rfl)

/-! ## The completion of a set -/

/-- The last bit: the open set has all its words, and passes into the history if it is later than the newest set. -/
theorem completeSet_keeps {o : OpenSet} {s : State}
    (hwords : HistoryInv s → o.words.length = wordsPerSet s.straps.role) : Keeps s (completeSet o s) := by
  unfold completeSet
  dsimp only
  refine .ite (fun hpass => .trans (t := s.withPort _) (keeps_withPort fun h => ?_) (setArrived_keeps _ _))
    fun _ => keeps_withPort fun ⟨hlen, hrise, htemps, hsets, _⟩ => ⟨hlen, hrise, htemps, hsets, nofun⟩
  have hw := hwords h
  obtain ⟨hlen, hrise, htemps, hsets, -⟩ := h
  obtain ⟨hfields, htemps'⟩ := decodeSet_lengths hw htemps
  obtain ⟨hlen', hrise', hmem⟩ := enterHistory_spec (x := decodeSet s.straps.role s.port.lastTemps o) hlen hrise hpass
  refine ⟨hlen', hrise', htemps', fun y hy => ?_, nofun⟩
  rcases hmem y hy with rfl | hy
  · exact ⟨hfields, htemps'⟩
  · exact hsets y hy

theorem takeBit_keeps (bit : Bool) (s : State) : Keeps s (takeBit bit s) := by
  unfold takeBit
  split
  · exact .refl s
  · next o ho =>
    have hlen := push_words_length o bit
    refine .ite (fun hc => completeSet_keeps fun h => ?_) fun hc => keeps_withPort fun h => ?_
    all_goals
      obtain ⟨hshort, hbits⟩ := h.2.2.2.2 o ho
      simp only [OpenSet.complete, decide_eq_true_eq] at hc
    · split_ifs at hlen <;> omega
    · obtain ⟨hhist, hrise, htemps, hsets, -⟩ := h
      refine ⟨hhist, hrise, htemps, hsets, fun x hx => ?_⟩
      obtain rfl := Option.some.inj hx
      exact ⟨Nat.lt_of_not_le hc, push_bits_lt bit hbits⟩

/-! ## The step -/

theorem withoutCapture_sending {a : LineActivity} {sd : Send} (h : a.withoutCapture = .sending sd) :
    ∃ sd', a = .sending sd' := by
  cases a <;> simp_all [LineActivity.withoutCapture]

theorem reach_keeps (t : HutTime) (byStep : Bool) (s : State) : Keeps s (reach t byStep s) := by
  obtain ⟨d, h, -⟩ := reach_spec t byStep s
  rw [h]; exact keeps_withDue d

theorem subKey_stepped (c : Int) (e : Subscription) : subKey (e.stepped c) = subKey e := by
  unfold Subscription.stepped
  split
  · next h hc => simp [subKey, Subscription.isTemp, hc]
  · rfl
  · rfl

theorem keeps_queriesStepped (c : Int) (s : State) : Keeps s (s.withQuery (s.query.stepped c)) := by
  refine .trans (keeps_mapSubs (subKey_stepped c)) (keeps_withQuery fun ⟨hsubs, hfew, htags⟩ => ⟨hsubs, ?_, ?_⟩)
  · simpa [QueryEngine.stepped] using hfew
  · simpa [QueryEngine.stepped, Function.comp_def] using htags

/-- The blocks that a step changes before the assembler acts (Figure 3-2): the clock, the line's capture, the peers
and the sample port. -/
def displaced (c : Int) (s : State) : State :=
  (((s.withClock (s.clock.stepped c)).withLine { s.line with activity := s.line.activity.withoutCapture }).withPresence
    { s.presence with peers := s.presence.peers.map (Peer.stepped c) }).withPort
      { s.port with openSet := none, history := [] }

/-- The STEP note and the condition STEPPED. -/
def stepNoted (c : Int) (s : State) : State :=
  (writeNote (.step c) s).withConditions { (writeNote (.step c) s).conditions with stepped := true }

theorem stepClock_eq (c : Int) (s : State) :
    stepClock c s =
      reach (s.clock.time.add c) true
        (((beginRound (stepNoted c (assemblerStep (s.clock.time.add c) (displaced c s)))).withQuery
          ((stepNoted c (assemblerStep (s.clock.time.add c) (displaced c s))).query.stepped c)).withDue .clear) := by
  unfold stepClock displaced stepNoted
  simp [beginRound]

theorem displaced_keeps (c : Int) (s : State) : Keeps s (displaced c s) := by
  refine (((keeps_stepped c s).trans ?_).trans (keeps_mapPeers_same (f := Peer.stepped c) fun _ => rfl)).trans
    (keeps_port_cleared _)
  refine keeps_activity rfl (fun _ hw => ?_) fun sd hsd => .inr (withoutCapture_sending hsd)
  simp only [State.withClock_line] at hw
  simp only [hw]; rfl

theorem stepNoted_keeps (c : Int) (s : State) : Keeps s (stepNoted c s) :=
  (writeNote_keeps _ s).trans (keeps_withConditions _)

theorem stepClock_keeps (c : Int) (s : State) : Keeps s (stepClock c s) := by
  rw [stepClock_eq]
  have hround := ((displaced_keeps c s).trans (assemblerStep_keeps (s.clock.time.add c) _)).trans
    ((stepNoted_keeps c _).trans (beginRound_keeps _))
  exact ((hround.trans (keeps_queriesStepped c _)).trans (keeps_withDue _)).trans (reach_keeps _ _ _)

theorem takeRoundEnd_keeps (s : State) : Keeps s (takeRoundEnd s) := by
  unfold takeRoundEnd
  split
  · exact (roundWrites_keeps s).trans (stepClock_keeps _ _)
  · next x r hor =>
    obtain ⟨hx, hr⟩ := roundOrder_slew_bounds hor
    exact ((roundWrites_keeps s).trans (keeps_slewed rfl hx hr)).trans (beginRound_keeps _)

end Sys2Proof.Keeping

/-! The query engine's questions and answers, the ends of a send, and the restart. -/

namespace Sys2Proof.Keeping

open Sys2Proof.Machine

/-! ## The subscription table -/

theorem subKey_carryOver (old : List Subscription) (e : Subscription) : subKey (carryOver old e) = subKey e := by
  unfold carryOver
  split
  · next o ho => exact (sameKey_iff o e).mp (by simpa using List.find?_some ho)
  · rfl

theorem peerStations_nodup (chs : List Channel) : ∀ acc : List Station, acc.Nodup → (peerStations chs acc).Nodup := by
  induction chs with
  | nil => exact fun _ h => h
  | cons c rest ih =>
    intro acc h
    unfold peerStations
    split
    · next hnew =>
      refine ih _ (List.nodup_append.mpr ⟨h, List.nodup_singleton _, fun a ha b hb => ?_⟩)
      obtain rfl := List.mem_singleton.mp hb
      rintro rfl
      simp [ha] at hnew
    · exact ih acc h

theorem buildSubs_nodup (set : CorrectionSet) : ((buildSubs set).map subKey).Nodup := by
  have htemps : (((peerStations set.channels []).map fun n => (⟨n, .temp none⟩ : Subscription)).map subKey).Nodup := by
    rw [List.map_map]
    exact (peerStations_nodup _ _ .nil).map fun a b hab => (Prod.mk.inj hab).1
  unfold buildSubs
  split
  · simpa using htemps
  · rw [List.map_append]
    refine List.nodup_append.mpr ⟨htemps, List.nodup_singleton _, fun a ha b hb => ?_⟩
    rw [List.map_map] at ha
    obtain ⟨n, -, rfl⟩ := List.mem_map.mp ha
    obtain rfl := List.mem_singleton.mp hb
    exact fun h => by cases (Prod.mk.inj h).2

theorem rebuildSubs_keeps (set : CorrectionSet) (s : State) : Keeps s (rebuildSubs set s) := by
  refine (retireQueries_keeps _ s).trans (keeps_withQuery fun ⟨_, hfew, htags⟩ => ⟨?_, ?_, ?_⟩)
  · rw [subs_distinct_iff, List.map_map]
    simpa only [Function.comp_def, subKey_carryOver] using buildSubs_nodup set
  · simpa using hfew
  · simpa [Function.comp_def] using htags

theorem promote_keeps {p : PendingSet} {s : State} (hp : s.store.pendingSet = some p) (hsched : p.scheduled = true) :
    Keeps s (promote p s) := by
  have hstore : Keeps s ((s.withDue { s.due with promote := false }).withStore (s.store.promoted s.straps.role p)) :=
    (keeps_withDue { s.due with promote := false }).trans
      (keeps_promoted (s := s.withDue { s.due with promote := false }) hp hsched)
  exact ((hstore.trans (rebuildSubs_keeps p.content _)).trans (ringWrite_keeps _ _)).trans (stormPromotion_keeps _)

theorem takePromotion_keeps (s : State) : Keeps s (takePromotion s) := by
  unfold takePromotion
  refine .ite (fun _ => ?_) fun _ => .refl s
  split
  · next p hp => exact .ite (promote_keeps hp) fun _ => .refl s
  · exact .refl s

/-! ## Arrivals -/

theorem subKey_holdTemps {p : Subscription → Bool} {temps : List Int} {now : HutTime} (e : Subscription) :
    subKey (if p e = true ∧ e.isTemp = true then { e with content := .temp (some ⟨temps, now⟩) } else e) = subKey e := by
  split
  · next h => simp only [subKey, h.2]; rfl
  · rfl

theorem ownTempArrival_keeps (src : Station) (payload : List Byte) (s : State) : Keeps s (ownTempArrival src payload s) := by
  unfold ownTempArrival
  split
  · exact keeps_mapSubs subKey_holdTemps
  · exact .refl s

theorem subKey_holdObs (src : Station) (o : ScalarObs) (e : Subscription) :
    subKey (if e.station = src ∧ e.isTemp = false then { e with content := .obs (some o) } else e) = subKey e := by
  split
  · next h => simp only [subKey, h.2]; rfl
  · rfl

theorem ownObs_keeps (src : Station) (payload : List Byte) (s : State) : Keeps s (ownObs src payload s) := by
  unfold ownObs
  split <;> try exact .refl s
  next o _ =>
    refine .ite (fun _ => ?_) fun _ => .refl s
    exact (keeps_mapSubs (subKey_holdObs src o)).trans (scalarArrived_keeps src o _)

theorem holdTempsAt_keys (index : Nat) (temps : List Int) (now : HutTime) (subs : List Subscription) :
    (holdTempsAt index temps now subs).map subKey = subs.map subKey := by
  refine map_modify_of_eq fun e _ => ?_
  split
  · next h => simp only [subKey, h]; rfl
  · rfl

theorem ownReply_keeps (src : Station) (payload : List Byte) (s : State) : Keeps s (ownReply src payload s) := by
  unfold ownReply
  split
  · exact .refl s
  · refine .ite (fun _ => ?_) fun _ => .refl s
    split
    · exact .refl s
    · refine .trans (keeps_subs ?_) (retireQueries_keeps _ _)
      split
      · exact holdTempsAt_keys _ _ _ _
      · rfl

/-! ## Own queries -/

/-- The tags from `t` on that are carried, and the first that is not, if it is among `n` tries (R128). -/
theorem freeTag_spec (queries : List PendingQuery) (n : Nat) (t : BitVec 4) :
    ∃ d, d ≤ n ∧ freeTag queries n t = t + BitVec.ofNat 4 d ∧
      (∀ j, j < d → ∃ x ∈ queries, x.tag = t + BitVec.ofNat 4 j) ∧
      (d < n → ∀ x ∈ queries, x.tag ≠ freeTag queries n t) := by
  induction n generalizing t with
  | zero => exact ⟨0, le_rfl, by simp [freeTag], by simp, by simp⟩
  | succ n ih =>
    rw [freeTag]
    split
    · next hcarried =>
      obtain ⟨d, hd, htag, hbefore, hfree⟩ := ih (t + 1#4)
      have hnat (j : Nat) : t + 1#4 + BitVec.ofNat 4 j = t + BitVec.ofNat 4 (j + 1) := by
        rw [BitVec.add_assoc, ← BitVec.ofNat_add, Nat.add_comm]
      refine ⟨d + 1, by omega, by rw [htag, hnat], fun j hj => ?_, fun h => hfree (by omega)⟩
      cases j with
      | zero => simpa using hcarried
      | succ j => simpa only [hnat] using hbefore j (by omega)
    · next hfree =>
      exact ⟨0, Nat.zero_le _, by simp, by simp, fun _ => by simpa using hfree⟩

/-- Fewer than 16 queries leave a tag free. -/
theorem freeTag_free {queries : List PendingQuery} (h : queries.length < 16) (t : BitVec 4) :
    ∃ d, d < 16 ∧ freeTag queries 16 t = t + BitVec.ofNat 4 d ∧
      (∀ j, j < d → ∃ x ∈ queries, x.tag = t + BitVec.ofNat 4 j) ∧ ∀ x ∈ queries, x.tag ≠ freeTag queries 16 t := by
  obtain ⟨d, hd, htag, hbefore, hfree⟩ := freeTag_spec queries 16 t
  have hlt : d < 16 := by
    by_contra hge
    have hall : (List.range 16).map (fun j => t + BitVec.ofNat 4 j) ⊆ queries.map PendingQuery.tag := by
      intro x hx
      obtain ⟨j, hj, rfl⟩ := List.mem_map.mp hx
      obtain ⟨q, hq, hqt⟩ := hbefore j (by have := List.mem_range.mp hj; omega)
      exact List.mem_map.mpr ⟨q, hq, hqt⟩
    have hnodup : ((List.range 16).map fun j => t + BitVec.ofNat 4 j).Nodup := by
      refine List.nodup_range.map_on fun j hj k hk hjk => ?_
      have hj := List.mem_range.mp hj
      have hk := List.mem_range.mp hk
      bv_omega
    have hlen := (hnodup.subperm hall).length_le
    simp only [List.length_map, List.length_range] at hlen
    omega
  exact ⟨d, hlt, htag, hbefore, hfree hlt⟩

theorem issueQuery_keeps {index : Nat} {e : Subscription} {s : State} (hroom : s.query.queries.length < 4) :
    Keeps s (issueQuery index e s) := by
  have htail := offerAsk_keeps ⟨e.station, freeTag s.query.queries 16 s.query.tagCounter⟩ (s.withQuery
    { s.query with
      queries := s.query.queries ++ [⟨freeTag s.query.queries 16 s.query.tagCounter, e.station, index, s.clock.time⟩]
      tagCounter := freeTag s.query.queries 16 s.query.tagCounter + 1#4 })
  refine .trans ?_ htail
  refine keeps_withQuery fun ⟨hsubs, _, htags⟩ => ⟨hsubs, ?_, ?_⟩
  · simp only [List.length_append, List.length_singleton]; omega
  · obtain ⟨-, -, -, -, hfree⟩ := freeTag_free (queries := s.query.queries) (by omega) s.query.tagCounter
    rw [List.map_append]
    refine List.nodup_append.mpr ⟨htags, List.nodup_singleton _, fun a ha b hb => ?_⟩
    obtain ⟨q, hq, rfl⟩ := List.mem_map.mp ha
    obtain rfl := List.mem_singleton.mp hb
    exact hfree q hq

theorem shouldAsk_room {index : Nat} {e : Subscription} {s : State} (h : shouldAsk index e s = true) :
    s.query.queries.length < 4 := by
  simp only [shouldAsk, Bool.and_eq_true, decide_eq_true_eq] at h
  exact h.2

theorem considerFrom_keeps (l : List Subscription) : ∀ (index : Nat) (s : State), Keeps s (considerFrom index l s) := by
  induction l with
  | nil => exact fun _ s => .refl s
  | cons e rest ih =>
    intro index s
    refine .trans (.ite (fun h => ?_) fun _ => .refl s) (ih (index + 1) _)
    exact issueQuery_keeps (shouldAsk_room h)

/-! ## The ends of a send -/

theorem waiting_ne_sending (sd : Send) : LineActivity.waiting ≠ .sending sd := LineActivity.noConfusion

theorem idle_ne_sending (sd : Send) : LineActivity.idle ≠ .sending sd := LineActivity.noConfusion

theorem receiving_ne_sending (c : Option HutTime) (sd : Send) : LineActivity.receiving c ≠ .sending sd :=
  LineActivity.noConfusion

/-- The line once the packet in flight has left its place. -/
def sendDropped (sd : Send) (cycle : Nat) (ended : Bool) (l : LineInterface) : LineInterface :=
  { (l.dropSent sd).disturbed .waiting with cycle := cycle, sendEnded := ended }

theorem sendDropped_spec (sd : Send) (cycle : Nat) (ended : Bool) (l : LineInterface) :
    AfterSend sd cycle ended l (sendDropped sd cycle ended l) ∧
      (sendDropped sd cycle ended l).standing = l.standing ∧ (sendDropped sd cycle ended l).score = l.score := by
  obtain ⟨place, packet, capture, replaced, position, header, payload, check⟩ := sd
  cases place <;> cases replaced <;> exact ⟨⟨rfl, rfl, rfl, rfl, rfl, rfl, rfl, rfl, rfl, rfl, rfl, rfl, rfl⟩, rfl, rfl⟩

theorem dropSent_disturbed (sd : Send) (l : LineInterface) :
    (l.dropSent sd).disturbed .waiting = sendDropped sd l.cycle l.sendEnded l := by
  obtain ⟨place, packet, capture, replaced, position, header, payload, check⟩ := sd
  cases place <;> cases replaced <;> rfl

theorem cyclePassed_eq (sd : Send) (l : LineInterface) : l.cyclePassed sd = { l with cycle := cycleAfter sd l.cycle } := by
  unfold LineInterface.cyclePassed cycleAfter nextPosition
  cases sd.position <;> rfl

theorem cyclePassed_sendDropped (sd : Send) (cycle : Nat) (ended : Bool) (l : LineInterface) :
    (sendDropped sd cycle ended l).cyclePassed sd = sendDropped sd (cycleAfter sd cycle) ended l := by
  rw [cyclePassed_eq]; rfl

theorem cycleAfter_bounds (sd : Send) {n : Nat} (h : 1 ≤ n ∧ n ≤ 5) : 1 ≤ cycleAfter sd n ∧ cycleAfter sd n ≤ 5 := by
  unfold cycleAfter
  split
  · omega
  · exact h

theorem keeps_sendDropped {s : State} {sd : Send} (hact : s.line.activity = .sending sd) {cycle : Nat} {ended : Bool}
    (hcycle : 1 ≤ s.line.cycle ∧ s.line.cycle ≤ 5 → 1 ≤ cycle ∧ cycle ≤ 5) :
    Keeps s (s.withLine (sendDropped sd cycle ended s.line)) := by
  obtain ⟨hafter, hst, hsc⟩ := sendDropped_spec sd cycle ended s.line
  obtain ⟨hwait, -, -, -, -, hcy, -, -, -, -, hreply, hask, hobs⟩ := hafter
  refine keeps_withLine (fun h => ?_) fun ⟨h1, h2, h3, h4⟩ => ⟨?_, ?_, ?_, ?_⟩
  · refine lineInv_withLine h hst hsc (hcy ▸ hcycle (lineInv_cycle h)) (fun _ _ => hwait)
      (fun _ hsd => .inr ⟨sd, hact⟩) fun hw _ => ?_
    rcases ((lineInv_iff s).mp h).2.1.2 sd hact with hs | hs <;> rw [hs] at hw <;> simp at hw
  · rw [hreply]; split
    · rw [List.length_tail]; omega
    · exact h1
  · rw [hask]; split
    · rw [List.length_tail]; omega
    · exact h2
  · rw [hobs]; split
    · rw [List.length_tail]; omega
    · exact h3
  · rw [hobs]; split
    · exact (List.tail_sublist _).countP_le.trans h4
    · exact h4

theorem not_sending_sendDropped {sd : Send} {cycle : Nat} {ended : Bool} {l : LineInterface} (sd' : Send) :
    (sendDropped sd cycle ended l).activity ≠ .sending sd' := by
  obtain ⟨⟨hwait, -⟩, -⟩ := sendDropped_spec sd cycle ended l
  rw [hwait]; exact waiting_ne_sending sd'

theorem takeBitFault_keeps (late : Bool) (s : State) : Keeps s (takeBitFault late s) := by
  unfold takeBitFault
  split <;> try exact .refl s
  next sd hact =>
    refine .ite (fun hrun => ?_) fun _ => .refl s
    dsimp only
    rw [dropSent_disturbed, cyclePassed_sendDropped]
    have hst (c : Nat) : (sendDropped sd c s.line.sendEnded s.line).standing ≠ .strapFault := by
      rw [(sendDropped_spec _ _ _ _).2.1]; exact standing_of_running hrun
    split
    · exact (keeps_sendDropped hact (cycleAfter_bounds sd)).trans
        (raiseScore_keeps false le_rfl (hst _) not_sending_sendDropped)
    · exact (keeps_sendDropped hact id).trans (raiseScore_keeps false le_rfl (hst _) not_sending_sendDropped)

theorem endSend_keeps (acked : Bool) (s : State) : Keeps s (endSend acked s) := by
  unfold endSend
  split <;> try exact .refl s
  next sd hact =>
    refine .ite (fun hrun => ?_) fun _ => .refl s
    dsimp only
    rw [dropSent_disturbed, cyclePassed_sendDropped]
    have hdrop : Keeps s (s.withLine { sendDropped sd (cycleAfter sd s.line.cycle) s.line.sendEnded s.line with sendEnded := true }) :=
      keeps_sendDropped (ended := true) hact (cycleAfter_bounds sd)
    have hst : (sendDropped sd (cycleAfter sd s.line.cycle) s.line.sendEnded s.line).standing ≠ .strapFault := by
      rw [(sendDropped_spec _ _ _ _).2.1]; exact standing_of_running hrun
    refine hdrop.trans (.ite (fun _ => (keepOwnMark_keeps sd _).trans (lowerScore_keeps false _)) fun _ => ?_)
    exact .ite (fun _ => raiseScore_keeps false le_rfl hst not_sending_sendDropped) fun _ => .refl _

theorem loseContest_keeps (s : State) : Keeps s (loseContest s) := by
  unfold loseContest
  split <;> try exact .refl s
  exact .ite (fun hrun => keeps_activity rfl (fun hf => absurd hf (standing_of_running hrun))
    fun sd h => absurd h (receiving_ne_sending _ sd)) fun _ => .refl s

/-! ## The other commands of the line -/

theorem speaks_of_mayBegin {s : State} (h : mayBegin s = true) : s.running = true ∧ s.speaks = true := by
  simp only [mayBegin, Bool.and_eq_true] at h
  exact h.1.1

theorem beginSend_keeps (s : State) : Keeps s (beginSend s) := by
  unfold beginSend
  refine .ite (fun h => ?_) fun _ => .refl s
  obtain ⟨hrun, hspeaks⟩ := speaks_of_mayBegin h
  split
  · split
    · exact keeps_activity rfl (fun hf => absurd hf (standing_of_running hrun)) fun _ _ => .inl hspeaks
    · exact .refl s
  · exact .refl s

theorem becomeIdle_keeps (s : State) : Keeps s (becomeIdle s) := by
  unfold becomeIdle
  exact .ite (fun h => keeps_activity rfl (fun hf => absurd hf (standing_of_running h.1))
    fun sd h => absurd h (idle_ne_sending sd)) fun _ => .refl s

theorem seeDominant_keeps (s : State) : Keeps s (seeDominant s) := by
  unfold seeDominant
  refine .ite (fun hrun => ?_) fun _ => .refl s
  split
  · exact keeps_activity rfl (fun hf => absurd hf (standing_of_running hrun))
      fun sd h => absurd h (receiving_ne_sending _ sd)
  · exact keeps_activity rfl (fun _ _ => rfl) fun sd h => absurd h (waiting_ne_sending sd)
  · exact keeps_activity rfl (fun hf => absurd hf (standing_of_running hrun))
      fun sd h => absurd h (receiving_ne_sending _ sd)
  · next sd hact => exact keeps_activity rfl (fun hf => absurd hf (standing_of_running hrun)) fun _ _ => .inr ⟨sd, hact⟩

theorem takeReceiveFault_keeps (kind : ReceiveFaultKind) (s : State) : Keeps s (takeReceiveFault kind s) := by
  unfold takeReceiveFault
  refine .ite (fun htakes => ?_) fun _ => .refl s
  have hrun := standing_of_running ((takesPackets_iff s).mp htakes).1
  dsimp only
  split
  · exact .trans (keeps_activity rfl (fun _ _ => rfl) fun sd h => absurd h (waiting_ne_sending sd))
      (raiseScore_keeps false (by decide) hrun waiting_ne_sending)
  · exact .trans (keeps_activity rfl (fun _ _ => rfl) fun sd h => absurd h (waiting_ne_sending sd))
      (raiseScore_keeps false (by decide) hrun waiting_ne_sending)

theorem endJoining_keeps (s : State) : Keeps s (endJoining s) := by
  unfold endJoining
  exact .ite (fun _ => settleStanding_keeps true s) fun _ => .refl s

theorem stopLine_keeps (s : State) : Keeps s (stopLine s) := by
  unfold stopLine
  split <;> try exact .refl s
  · next sd hact => rw [dropSent_disturbed]; exact keeps_sendDropped hact id
  · exact keeps_activity rfl (fun _ _ => rfl) fun sd h => absurd h (waiting_ne_sending sd)

/-! ## The oscillator -/

theorem lineEdge_keeps (bit : Nat) (s : State) : Keeps s (s.withLine (s.line.edge bit)) := by
  unfold LineInterface.edge
  split
  · exact keeps_activity rfl (fun _ => id) fun sd hsd => .inr ⟨sd, hsd⟩
  · exact keeps_activity rfl (fun _ => id) fun sd hsd => .inr ⟨sd, hsd⟩

/-- The counts of an edge, on whatever the clock, the supply monitor and the line have become. -/
theorem keeps_counted {s : State} {c : HutClock} {r : RestartState} {l : LineInterface} (n0 n1 : Nat)
    (hc : Keeps s (s.withClock c)) (hl : ∀ t : State, t.line = s.line → Keeps t (t.withLine l)) :
    Keeps s ((((s.withClock c).withRestart r).withRing { s.ring with lappedNow := [] }).withLine l |>.withPresence
      { s.presence with debounce0 := n0, debounce1 := n1 }) ∧
    Keeps s (((s.withClock c).withRestart r).withRing { s.ring with lappedNow := [] }) := by
  have hclock : Keeps s (((s.withClock c).withRestart r).withRing { s.ring with lappedNow := [] }) :=
    (hc.trans (keeps_withRestart _)).trans (keeps_withRing id)
  exact ⟨(hclock.trans (hl _ rfl)).trans (keeps_debounce n0 n1 _), hclock⟩

theorem edgeCounts_keeps (s : State) : Keeps s (edgeCounts s) := by
  have h := keeps_counted (r := s.restart.edge) (debounceEdge .door s) (debounceEdge .heater s) (keeps_edge s)
    fun t ht => ht ▸ lineEdge_keeps s.bitTime t
  rw [edgeCounts]
  exact .ite (fun _ => h.1) fun _ => h.2

theorem reachAll_keeps (t : HutTime) (n : Nat) (s : State) : Keeps s (reachAll t n s) := by
  induction n with
  | zero => exact .refl s
  | succ n ih => exact ih.trans (reach_keeps _ _ _)

/-! ## The presence block's commands -/

theorem becomeAbsent_keeps (n : Station) (s : State) : Keeps s (becomeAbsent n s) :=
  (keeps_absent n s).trans (retireQueries_keeps _ _)

theorem keeps_setDebounce (n : Nat) (i : DistInput) (s : State) : Keeps s (s.withPresence (s.presence.setDebounce n i)) := by
  cases i <;> exact keeps_debounce _ _ s

theorem changeInput_keeps (i : DistInput) (active : Bool) (s : State) : Keeps s (changeInput i active s) := by
  unfold changeInput
  exact .ite (fun _ => (keeps_withPins _).trans (keeps_setDebounce 0 i (s.withPins _))) fun _ => keeps_withPins _

theorem expireDebounce_keeps (i : DistInput) (s : State) : Keeps s (expireDebounce i s) := by
  unfold expireDebounce
  refine .ite (fun _ => (keeps_setDebounce 0 i s).trans (setOwn_keeps _ _ ?_)) fun _ => .refl s
  cases i <;> rfl

theorem ownFlag_keeps {src : Station} {payload : List Byte} {s : State} (h : namesPeer src = true → IsPresent src s) :
    Keeps s (ownFlag src payload s) := by
  unfold ownFlag
  split
  · exact setPeerWires_keeps _ h
  · exact .refl s

theorem ownRoll_keeps {src : Station} {payload : List Byte} {s : State} (h : namesPeer src = true → IsPresent src s) :
    Keeps s (ownRoll src payload s) := by
  unfold ownRoll
  split
  · next r _ =>
    refine .trans (keeps_modifyPeer_same (f := fun e => { e with timeState := r.timeState }) fun _ => rfl) (setPeerWires_keeps _ fun hn e he => ?_)
    simp only [State.withPresence_presence, PresenceBlock.modifyPeer, hn, if_true, List.getElem?_modify_eq] at he
    obtain ⟨x, hx, rfl⟩ := Option.map_eq_some_iff.mp he
    exact h hn x hx
  · exact .refl s

theorem ownMarkLogic_keeps (src : Station) (payload : List Byte) (c : Option HutTime) (s : State) :
    Keeps s (ownMarkLogic src payload c s) := by
  unfold ownMarkLogic
  split
  · exact .ite (fun _ => keeps_modifyPeer_same fun _ => rfl) fun _ => .refl s
  · exact .refl s

/-! ## The questions -/

theorem offerReplies_keeps (l : List Reply) : ∀ s : State, Keeps s (offerReplies l s) := by
  induction l with
  | nil => exact .refl
  | cons r rest ih => exact fun s => (offerReply_keeps r s).trans (ih _)

theorem carryWindow_keeps (a : Ask) (s : State) : Keeps s (carryWindow a s) := by
  unfold carryWindow
  exact .ite (fun _ => offerReplies_keeps _ s) fun _ => offerReply_keeps _ s

theorem carryConsume_keeps (a : Ask) (s : State) : Keeps s (carryConsume a s) :=
  (keeps_withRing (ringInv_consume s.ring _)).trans (offerReply_keeps _ _)

theorem carryFence_keeps (a : Ask) (s : State) : Keeps s (carryFence a s) := by
  unfold carryFence
  exact .ite (fun _ => offerReply_keeps _ s) fun h => offerObs_keeps _ s fun _ => by simpa using h

theorem carryClear_keeps (a : Ask) (s : State) : Keeps s (carryClear a s) := by
  unfold carryClear
  exact .ite (fun _ => (keeps_withConditions _).trans (offerReply_keeps _ _)) fun _ => offerReply_keeps _ s

/-! ## The restart -/

/-- Every block as the restart leaves it, before the RESTART note (R167). -/
def restarted (p : StrapPins) (s : State) : State :=
  { line := freshLine p.station
    presence := freshPresence
    clock := s.clock.restarted (restartKind s)
    engine := ⟨(s.clock.restarted (restartKind s)).time, none, 0⟩
    port := freshPort (sampleStraps p).role
    store := s.store.restarted (restartKind s) (sampleStraps p)
    assembler := s.assembler.restarted (restartKind s)
    query := ⟨buildSubs (s.store.restarted (restartKind s) (sampleStraps p)).active, [], 0#4⟩
    ring := s.ring.restarted (restartKind s) (strapFaulty p.station)
    conditions := .clear
    straps := sampleStraps p
    restart := { s.restart with resetLow := false, supplyHold := false, lastKind := restartKind s }
    pins := s.pins
    due := .clear
    pending := s.pending }

theorem completeRestart_eq (p : StrapPins) (s : State) :
    completeRestart p s =
      if strapFaulty p.station then restarted p s else writeNote (.restart (restartKind s)) (restarted p s) := rfl

theorem strapFaulty_iff (n : Station) : strapFaulty n = true ↔ n = 0#5 ∨ n = 31#5 := by
  simp only [strapFaulty, namesPeer, Bool.not_eq_true', decide_eq_false_iff_not]
  bv_omega

theorem ringInv_restarted (k : RestartKind) (fault : Bool) {r : Ring} (h : RingInv r) : RingInv (r.restarted k fault) := by
  unfold Ring.restarted
  split
  · exact h
  · cases k with
    | warm => exact h
    | cold =>
      refine ⟨⟨.nil, fun _ hp => (List.not_mem_nil hp).elim⟩, Nat.zero_le _, by simp [Ring.unconsumed, Ring.behind], fun q h1 h2 => ?_⟩
      exact absurd (h1.trans h2) (Nat.not_succ_le_zero 0)

theorem wireInv_fresh : WireInv freshPresence := by
  refine ⟨rfl, fun e he _ => ?_, by decide, rfl⟩
  rw [List.eq_of_mem_replicate he]; rfl

theorem lineInv_restarted (p : StrapPins) (s : State) : LineInv (restarted p s) := by
  rw [lineInv_iff]
  have hst : (restarted p s).line.standing = if strapFaulty p.station then .strapFault else .joining := rfl
  refine ⟨⟨Nat.zero_le _, ?_⟩, ⟨fun _ => rfl, fun sd h => absurd h (waiting_ne_sending sd)⟩, fun _ => rfl, ?_, le_rfl, (by decide : 1 ≤ 5)⟩
  · rw [hst]; split
    · exact rfl
    · exact (by decide : 0 < 192)
  · rw [hst, show (restarted p s).straps.station = p.station from rfl, ← strapFaulty_iff]
    split <;> simp_all

theorem clockOk_restarted (k : RestartKind) (r r' : Role) {c : HutClock} (h : ClockOk r c) : ClockOk r' (c.restarted k) := by
  obtain ⟨hwf, -, htrim, -, -, -, -, -, -, hunset⟩ := h
  cases k with
  | cold => exact ⟨rfl, Nat.zero_lt_succ _, Nat.zero_le _, Nat.zero_le _, le_rfl, Nat.zero_le _, Nat.zero_le _,
      le_rfl, Bool.noConfusion, fun _ => ⟨rfl, rfl⟩⟩
  | warm => exact ⟨hwf, Nat.zero_lt_succ _, htrim, Nat.zero_le _, le_rfl, Nat.zero_le _, Nat.zero_le _, le_rfl,
      Bool.noConfusion, fun hu => ⟨(hunset hu).1, rfl⟩⟩

theorem storeInv_restarted (p : StrapPins) {s : State} (h : StoreInv s) : StoreInv (restarted p s) := by
  obtain ⟨hrole, hact, hrise, hdef, -, -, hnone⟩ := h
  have hstore : (restarted p s).store = s.store.restarted (restartKind s) (sampleStraps p) := rfl
  have hstraps : (restarted p s).straps = sampleStraps p := rfl
  unfold StoreInv
  rw [hstore, hstraps]
  unfold CorrectionStore.restarted
  split
  · next hfit =>
    have hsame : s.straps.role = (sampleStraps p).role := by
      have hfits := hfit.2
      simp only [CorrectionStore.fits, Bool.and_eq_true, decide_eq_true_eq] at hfits
      rw [← hrole]; exact hfits.1
    rw [← hsame]
    exact ⟨hrole, hact, hrise, hdef, fun _ h => (Option.some_ne_none _ h.symm).elim,
        fun _ h => (Option.some_ne_none _ h.symm).elim, fun hr => ⟨(hnone hr).1, rfl, rfl⟩⟩
  · exact ⟨rfl, setShape_default _, pointsRise_default _, fun _ => rfl,
      fun _ h => (Option.some_ne_none _ h.symm).elim, fun _ h => (Option.some_ne_none _ h.symm).elim, fun _ => ⟨rfl,
      rfl, rfl⟩⟩

theorem restarted_keeps (p : StrapPins) (s : State) : Keeps s (restarted p s) where
  ring := ringInv_restarted _ _
  wire _ := wireInv_fresh
  line _ := lineInv_restarted p s
  places _ := ⟨Nat.zero_le _, Nat.zero_le _, Nat.zero_le _, Nat.zero_le _⟩
  clock h := (clockInv_iff _).mpr (clockOk_restarted (restartKind s) s.straps.role _ ((clockInv_iff s).mp h))
  history _ := ⟨Nat.zero_le _, rfl, List.length_replicate, fun _ h => (List.not_mem_nil h).elim,
      fun _ h => (Option.some_ne_none _ h.symm).elim⟩
  store := storeInv_restarted p
  query _ := ⟨(subs_distinct_iff _).mpr (buildSubs_nodup _), Nat.zero_le _, .nil⟩
  pending := rfl
  assembly _ := ⟨Nat.zero_le _, rfl, fun _ h => (Option.some_ne_none _ h.symm).elim, fun _ h => (List.not_mem_nil h).elim,
    fun _ h => (Option.some_ne_none _ h.symm).elim, fun _ => rfl⟩

theorem completeRestart_keeps (p : StrapPins) (s : State) : Keeps s (completeRestart p s) := by
  rw [completeRestart_eq]
  exact .ite (fun _ => restarted_keeps p s) fun _ => (restarted_keeps p s).trans (writeNote_keeps _ _)

theorem keeps_markerCleared (s : State) : Keeps s (s.withRing { s.ring with marker := false }) := keeps_withRing id

theorem fallSupply_keeps (s : State) : Keeps s (fallSupply s) :=
  ((keeps_markerCleared s).trans (stopLine_keeps _)).trans (keeps_withRestart _)

theorem recoverSupply_keeps (m : SupplyMoment) (s : State) : Keeps s (recoverSupply m s) := by
  cases m with
  | rises => exact .ite (fun _ => keeps_withRestart _) fun _ => .refl s
  | stayed p =>
    refine .ite (fun _ => .ite (fun _ => keeps_withRestart _) fun _ => ?_) fun _ => .refl s
    exact (keeps_withRestart _).trans (completeRestart_keeps p _)

theorem assertReset_keeps (s : State) : Keeps s (assertReset s) :=
  .ite (fun _ => .refl s) fun _ => (stopLine_keeps s).trans (keeps_withRestart _)

theorem releaseReset_keeps (p : StrapPins) (s : State) : Keeps s (releaseReset p s) :=
  .ite (fun _ => .ite (fun _ => keeps_withRestart _) fun _ => (keeps_withRestart _).trans (completeRestart_keeps p _))
    fun _ => .refl s

theorem takeRestart_keeps (a : Ask) (p : StrapPins) (s : State) : Keeps s (takeRestart a p s) := by
  unfold takeRestart
  split
  · exact (stopLine_keeps s).trans (completeRestart_keeps p _)
  · exact ((keeps_markerCleared s).trans (stopLine_keeps _)).trans (completeRestart_keeps p _)
  · exact receiveAsk_keeps fun t => .refl t

end Sys2Proof.Keeping

/-! What every step keeps: the obligations on the invariants and on the step itself. -/

namespace Sys2Proof.Keeping

open Sys2Proof.Machine

/-- Every command keeps every invariant. -/
theorem after_keeps (c : Instr) (s : State) : Keeps s (after c s) := by
  cases c with
  | lineIdle => exact becomeIdle_keeps s
  | sendBegin => exact beginSend_keeps s
  | contestLost => exact loseContest_keeps s
  | bitFault late => exact takeBitFault_keeps late s
  | sendEnd acked => exact endSend_keeps acked s
  | receiveFault kind => exact takeReceiveFault_keeps kind s
  | ownNumberPacket => exact receivePacket_keeps (owner := fun _ t => t) (.refl _)
  | joiningCountExpiry => exact endJoining_keeps s
  | presenceExpiry n => exact .ite (fun _ => becomeAbsent_keeps n s) fun _ => .refl s
  | disturbanceInputChange inp active => exact changeInput_keeps inp active s
  | debounceExpiry inp => exact expireDebounce_keeps inp s
  | rollOffer => exact .ite (fun _ => (keeps_withDue _).trans (offerRoll_keeps _ _)) fun _ => .refl s
  | flagReceived src p =>
    exact receivePacket_keeps (owner := fun _ t => ownFlag src p t) (ownFlag_keeps fun hn => isPresent_heard hn)
  | rollReceived src p =>
    exact receivePacket_keeps (owner := fun _ t => ownRoll src p t) (ownRoll_keeps fun hn => isPresent_heard hn)
  | markOffer => exact .ite (fun _ => offerOwnMark_keeps s) fun _ => .refl s
  | markReceived src p => exact receivePacket_keeps (ownMarkLogic_keeps src p _ _)
  | lockChange active => exact changeLock_keeps active s
  | ppsAgeExpiry => exact .ite (fun _ => ppsAgeExpiry_keeps s) fun _ => .refl s
  | ppsEdge => exact takePps_keeps s
  | roundEnd => exact .ite (fun _ => takeRoundEnd_keeps s) fun _ => .refl s
  | syncEdge => exact takeSync_keeps s
  | conversionSetComplete bit => exact .ite (fun _ => takeBit_keeps bit s) fun _ => .refl s
  | baseEpoch => exact takeBaseEpoch_keeps s
  | fastEpoch => exact takeFastEpoch_keeps s
  | holdExpiry => exact expireHold_keeps s
  | promotion => exact takePromotion_keeps s
  | tempReceived src p =>
    exact receivePacket_keeps (owner := fun _ t => ownTempArrival src p t) (ownTempArrival_keeps src p _)
  | obsReceived src p => exact receivePacket_keeps (owner := fun _ t => ownObs src p t) (ownObs_keeps src p _)
  | queryConsideration => exact .ite (fun _ => (keeps_withDue _).trans (considerFrom_keeps _ _ _)) fun _ => .refl s
  | queryTimeout tag =>
    exact .ite (fun _ => (retireQueries_keeps _ s).trans (keeps_withConditions _)) fun _ => .refl s
  | replyReceived src p => exact receivePacket_keeps (owner := fun _ t => ownReply src p t) (ownReply_keeps src p _)
  | tempPublication => exact .ite (fun _ => (keeps_withDue _).trans (offerTemp_keeps _ _)) fun _ => .refl s
  | status a => exact receiveAsk_keeps fun t => offerReply_keeps _ t
  | readWindow a => exact receiveAsk_keeps (carryWindow_keeps a)
  | consume a => exact receiveAsk_keeps (carryConsume_keeps a)
  | tableRead a => exact receiveAsk_keeps fun t => offerReply_keeps _ t
  | tableWrite a => exact receiveAsk_keeps fun t => (keeps_tableWrite _ _ t).trans (offerReply_keeps _ _)
  | tableCommit a => exact receiveAsk_keeps fun t => (keeps_tableCommit _ t).trans (offerReply_keeps _ _)
  | tableDiscard a => exact receiveAsk_keeps fun t => (keeps_tableDiscard t).trans (offerReply_keeps _ _)
  | tempNow a => exact receiveAsk_keeps fun t => offerReply_keeps _ t
  | fence a => exact receiveAsk_keeps (carryFence_keeps a)
  | clearConditions a => exact receiveAsk_keeps (carryClear_keeps a)
  | restartWarm a pins => exact takeRestart_keeps a pins s
  | restartCold a pins => exact takeRestart_keeps a pins s
  | unknownQuestion a code => exact .ite (fun _ => .refl s) fun _ => receiveAsk_keeps fun t => offerReply_keeps _ t
  | supplyFall => exact fallSupply_keeps s
  | supplyRecovery moment => exact recoverSupply_keeps moment s
  | resetAsserted => exact assertReset_keeps s
  | resetReleased pins => exact releaseReset_keeps pins s
  | oscillatorEdge => exact (edgeCounts_keeps s).trans (reachAll_keeps _ _ _)
  | serialClockEdge bit => exact .ite (fun _ => takeBit_keeps bit s) fun _ => .refl s
  | askDropped src p => exact .ite (fun _ => .refl s) fun _ => receiveAskPacket_keeps (owner := fun _ t => t) (.refl _)
  | dominantLevelWhileNotIdle => exact seeDominant_keeps s

theorem step_of_pending {s : State} {c : Instr} {rest : List Instr} (h : s.pending = c :: rest) :
    step s = exec c (s.withPending rest) := by
  simp only [step, h]

theorem step_of_no_pending {s : State} (h : s.pending = []) : step s = .next s := by simp only [step, h]

/-- A step keeps every invariant of the blocks: the queue of waiting commands enters none of them. -/
theorem step_keeps {s t : State} (h : step s = .next t) : ∃ rest, Keeps (s.withPending rest) t := by
  cases hp : s.pending with
  | nil =>
    rw [step_of_no_pending hp] at h
    obtain rfl := Host.Outcome.next.inj h
    exact ⟨s.pending, .refl s⟩
  | cons c rest =>
    rw [step_of_pending hp, exec_eq_after] at h
    obtain rfl := Host.Outcome.next.inj h
    exact ⟨rest, after_keeps c _⟩

/-- Settles O4. -/
theorem ringStaysSound : Obligations.RingStaysSound := by
  intro s t hinv h
  obtain ⟨_, hk⟩ := step_keeps h
  exact hk.ring hinv

/-- Settles O5. -/
theorem wireOrStaysTheOr : Obligations.WireOrStaysTheOr := by
  intro s t hinv h
  obtain ⟨_, hk⟩ := step_keeps h
  exact hk.wire hinv

/-- Settles O6. -/
theorem standingStaysInItsBand : Obligations.StandingStaysInItsBand := by
  intro s t hinv h
  obtain ⟨_, hk⟩ := step_keeps h
  exact hk.line hinv

/-- Settles O7. -/
theorem queuesStayWithinCapacity : Obligations.QueuesStayWithinCapacity := by
  intro s t hinv h
  obtain ⟨_, hk⟩ := step_keeps h
  exact hk.places hinv

/-- Settles O8. -/
theorem clockStaysInRange : Obligations.ClockStaysInRange := by
  intro s t hinv h
  obtain ⟨_, hk⟩ := step_keeps h
  exact hk.clock hinv

/-- Settles O9. -/
theorem historyStaysOrdered : Obligations.HistoryStaysOrdered := by
  intro s t hinv h
  obtain ⟨_, hk⟩ := step_keeps h
  exact hk.history hinv

/-- Settles O10. -/
theorem correctionSetsStayValid : Obligations.CorrectionSetsStayValid := by
  intro s t hinv h
  obtain ⟨_, hk⟩ := step_keeps h
  exact hk.store hinv

/-- Settles O11. -/
theorem assemblyQueueStaysOrdered : Obligations.AssemblyQueueStaysOrdered := by
  intro s t hinv h
  obtain ⟨_, hk⟩ := step_keeps h
  exact hk.assembly hinv

/-- Settles O12. -/
theorem pendingQueriesStayDistinct : Obligations.PendingQueriesStayDistinct := by
  intro s t hinv h
  obtain ⟨_, hk⟩ := step_keeps h
  exact hk.query hinv

/-- Settles O2. -/
theorem everyCommandHasANextState : Obligations.EveryCommandHasANextState :=
  fun c s => ⟨after c s, exec_eq_after c s, (after_keeps c s).pending⟩

/-- Settles O1. -/
theorem stepTakesTheFrontCommand : Obligations.StepTakesTheFrontCommand :=
  fun _ => ⟨fun _ _ => step_of_pending, step_of_no_pending⟩

/-- Sequence number 0, the RESTART note's, is the only one retained at reset. -/
theorem ringInv_reset : RingInv State.reset.ring := by
  refine ⟨by decide, by decide, by decide, fun q h1 h2 => ?_⟩
  have hq : q = 0#16 := by
    change 1 ≤ (1#16 - q).toNat at h1
    change (1#16 - q).toNat ≤ 1 at h2
    bv_omega
  subst hq
  exact ⟨_, rfl, rfl⟩

theorem lineInv_reset : LineInv State.reset := by
  rw [lineInv_iff]
  exact ⟨⟨by decide, (by decide : 0 < 192)⟩, ⟨nofun, fun sd h => absurd h (waiting_ne_sending sd)⟩, fun _ => rfl, by decide, by decide⟩

theorem historyInv_reset : HistoryInv State.reset :=
  ⟨Nat.zero_le _, rfl, rfl, fun _ h => (List.not_mem_nil h).elim, fun _ h => (Option.some_ne_none _ h.symm).elim⟩

theorem storeInv_reset : StoreInv State.reset :=
  ⟨rfl, setShape_default .vector, pointsRise_default .vector, fun _ => rfl,
    fun _ h => (Option.some_ne_none _ h.symm).elim, fun _ h => (Option.some_ne_none _ h.symm).elim, fun _ => ⟨rfl, rfl, rfl⟩⟩

theorem assemblyInv_reset : AssemblyInv State.reset :=
  ⟨Nat.zero_le _, rfl, fun _ h => (Option.some_ne_none _ h.symm).elim, fun _ h => (List.not_mem_nil h).elim,
    fun _ h => (Option.some_ne_none _ h.symm).elim, fun _ => rfl⟩

/-- Settles O3. -/
theorem invariantsHoldAtReset : Obligations.InvariantsHoldAtReset :=
  ⟨ringInv_reset, wireInv_fresh, lineInv_reset, by unfold PlacesInv; decide, by unfold ClockInv; decide,
      historyInv_reset, storeInv_reset, assemblyInv_reset,
    ⟨.nil, Nat.zero_le _, .nil⟩⟩

end Sys2Proof.Keeping

/-! The station line (Section 1): idle and dominant levels, the arbiter's choice, the ends of a send, receive
faults, and the standing that follows the score. -/

namespace Sys2Proof.StationLine

open Sys2Proof.Machine
open Sys2Proof.Keeping (sendDropped sendDropped_spec dropSent_disturbed cyclePassed_sendDropped)

/-! ## Reception -/

theorem received_eq (src : Station) (s : State) :
    received src s = (endReception s).withPresence
      (if Numbered src then
        { s.presence with
          peers := s.presence.peers.modify (src.toNat - 1) fun e =>
            { e with presence := .present, lastHeard := some s.clock.time } }
      else s.presence) := by
  unfold received endReception LineInterface.afterPacket
  cases s.line.activity <;> rfl

/-- The state a good packet's owner acts on (R10, R24). -/
theorem heard_endReception (src : Station) (s : State) : heard src (endReception s) = received src s := by
  rw [received_eq]
  rcases heard_spec src (endReception s) with ⟨hn, h⟩ | ⟨hn, h⟩
  · have hnum : Numbered src := by simpa [namesPeer] using hn
    rw [h, if_pos hnum, PresenceBlock.modifyPeer, if_pos hn]; rfl
  · have hnum : ¬ Numbered src := by simpa [namesPeer] using hn
    rw [h, if_neg hnum]; rfl

theorem receivePacket_of_takes {src : Station} {s : State} (h : Takes src s) (owner : Option HutTime → State → State) :
    receivePacket src owner s = scored (owner s.receiveCapture (received src s)) := by
  obtain ⟨htakes, hsrc⟩ := h
  rw [receivePacket, if_pos htakes, handOver, if_neg hsrc, heard_endReception]; rfl

theorem receivePacket_of_not_taken {s : State} (h : s.takesPackets = false) (src : Station)
    (owner : Option HutTime → State → State) : receivePacket src owner s = s := by
  simp [receivePacket, h]

theorem receivePacket_own {s : State} (h : s.takesPackets = true) (owner : Option HutTime → State → State) :
    receivePacket s.straps.station owner s = takeOwnNumber (endReception s) := by
  rw [receivePacket, if_pos h, handOver, if_pos rfl]

theorem afterPacket_of_takes {s : State} (h : s.takesPackets = true) :
    s.line.afterPacket = { s.line with activity := .waiting, quiet := 0, joinCount := 0 } := by
  rcases afterPacket_spec s.line with ⟨⟨sd, hsd⟩, -⟩ | ⟨-, h'⟩
  · obtain ⟨-, hact⟩ := (takesPackets_iff s).mp h
    rcases hact with hact | ⟨c, hact⟩ <;> rw [hact] at hsd <;> cases hsd
  · exact h'

/-- While the node waits or sends it takes no packet (R9, R11). -/
theorem not_takesPackets {s : State} (h : s.line.activity = .waiting ∨ ∃ sd, s.line.activity = .sending sd) :
    s.takesPackets = false := by
  rw [Bool.eq_false_iff, ne_eq, takesPackets_iff]
  rintro ⟨-, hact | ⟨c, hact⟩⟩ <;> rw [hact] at h <;> rcases h with h | ⟨sd, h⟩ <;> cases h

/-- Settles O17. -/
theorem ownNumberPacketSetsDuplicate : Obligations.OwnNumberPacketSetsDuplicate := by
  intro s h
  have hown (owner : Option HutTime → State → State) : receivePacket s.straps.station owner s =
      settleStanding true ((s.withLine
        { s.line with
          activity := .waiting, quiet := 0, joinCount := 0, ackDriven := s.speaks
          score := min 255 (s.line.score + 8) }).withConditions { s.conditions with duplicate := true }) := by
    rw [receivePacket_own h, endReception, afterPacket_of_takes h]; rfl
  have hdropped (p : List Byte) : (if s.straps.station ≠ s.straps.station ∧ wouldAccept s.straps.station p s = true then s
      else receiveAskPacket s.straps.station (fun _ t => t) s) = receivePacket s.straps.station (fun _ t => t) s := by
    rw [if_neg fun hne => hne.1 rfl, receivePacket, if_pos h, receiveAskPacket,
      if_pos ((takesAsk_iff _ s).mpr (.inl h))]
  refine ⟨congrArg Host.Outcome.next (hown _), fun p => ⟨?_, ?_, ?_, ?_, ?_, ?_, ?_⟩⟩
  · exact congrArg Host.Outcome.next ((hown _).trans (hown fun _ t => t).symm)
  · exact congrArg Host.Outcome.next ((hown _).trans (hown fun _ t => t).symm)
  · exact congrArg Host.Outcome.next ((hown _).trans (hown fun _ t => t).symm)
  · exact congrArg Host.Outcome.next ((hown _).trans (hown fun _ t => t).symm)
  · exact congrArg Host.Outcome.next ((hown _).trans (hown fun _ t => t).symm)
  · exact congrArg Host.Outcome.next ((hown _).trans (hown fun _ t => t).symm)
  · exact congrArg Host.Outcome.next (hdropped p)

/-- Settles O16. -/
theorem receiveFaultAddsOne : Obligations.ReceiveFaultAddsOne := by
  refine ⟨fun s kind h => ?_, fun s kind hrun h => ?_⟩
  · have htakes := not_takesPackets h
    have hnot (src : Station) (owner : Option HutTime → State → State) :
        (Host.Outcome.next (receivePacket src owner s) : Host.Outcome State Fault Refusal) = .next s :=
      congrArg _ (receivePacket_of_not_taken htakes src owner)
    refine ⟨congrArg Host.Outcome.next ?_, hnot _ _, fun src p =>
      ⟨hnot _ _, hnot _ _, hnot _ _, hnot _ _, hnot _ _, hnot _ _⟩⟩
    rw [takeReceiveFault, if_neg (by simp [htakes])]
  · have htakes : s.takesPackets = true := (takesPackets_iff s).mpr ⟨hrun, h⟩
    show Host.Outcome.next (takeReceiveFault kind s) = _
    rw [takeReceiveFault, if_pos htakes]
    cases kind <;> rfl

/-! ## Idle and dominant levels -/

theorem disturbed_self {l : LineInterface} {a : LineActivity} (h : l.activity = a) :
    l.disturbed a = { l with quiet := 0, joinCount := 0 } := by subst h; rfl

/-- Settles O13. -/
theorem lineIdleAndDominantLevels : Obligations.LineIdleAndDominantLevels := by
  intro s hrun
  refine ⟨fun hact hquiet => ?_, fun h => ?_, fun hact => ?_, fun hact => ?_⟩
  · show Host.Outcome.next (becomeIdle s) = _
    rw [becomeIdle, if_pos ⟨hrun, hact, hquiet⟩]
  · show Host.Outcome.next (becomeIdle s) = _
    rw [becomeIdle, if_neg]
    rintro ⟨-, hact, hquiet⟩
    rcases h with h | h
    · exact h hact
    · exact absurd h (Nat.not_lt.mpr hquiet)
  · show Host.Outcome.next (seeDominant s) = _
    rw [seeDominant, if_pos hrun]
    split
    · exact absurd ‹_› hact
    all_goals rw [disturbed_self ‹_›]
  · show Host.Outcome.next (seeDominant s) = _
    simp only [seeDominant, if_pos hrun, hact]; rfl

/-! ## The standing -/

/-- Settles O18, by the standing evaluated and the entered standing of `enterStanding`. -/
theorem standingFollowsTheScore : Obligations.StandingFollowsTheScore := by
  refine ⟨fun joined s => ?_, fun s hrun hst hcount => ?_⟩
  · have hstays (h : nextStanding joined s.line.score s.line.standing = s.line.standing) : settleStanding joined s = s :=
      if_pos h
    have henters (st : Standing) (h : nextStanding joined s.line.score s.line.standing = st) (hne : st ≠ s.line.standing) :
        settleStanding joined s = enterStanding st s := by
      rw [settleStanding, if_neg (by rwa [h]), h]
    refine ⟨fun hst => ⟨fun hn => ?_, fun hj hn => ?_, fun hj hn hn' => ?_, fun hj hn => ?_⟩,
      fun hst => ⟨fun hn => ?_, fun hn => ?_⟩, fun hst => ⟨fun hn => ?_, fun hn hn' => ?_, fun hn => ?_⟩,
      fun hst => ⟨fun hn => ?_, fun hn => ?_⟩, fun hst => ?_⟩
    · exact henters .withdrawn (by simp [hst, nextStanding, hn]) (by simp [hst])
    · exact henters .normal (by simp [hst, nextStanding, hj, hn, show ¬ 192 ≤ s.line.score by omega]) (by simp [hst])
    · exact henters .restrained (by simp [hst, nextStanding, hj, show ¬ s.line.score < 96 by omega, show ¬ 192 ≤ s.line.score by omega])
        (by simp [hst])
    · exact hstays (by simp [hst, nextStanding, hj, show ¬ 192 ≤ s.line.score by omega])
    · exact hstays (by simp [hst, nextStanding, show ¬ 96 ≤ s.line.score by omega])
    · exact henters .restrained (by simp [hst, nextStanding, hn]) (by simp [hst])
    · exact henters .normal (by simp [hst, nextStanding, hn]) (by simp [hst])
    · exact hstays (by simp [hst, nextStanding, show ¬ s.line.score ≤ 64 by omega, show ¬ 192 ≤ s.line.score by omega])
    · exact henters .withdrawn (by simp [hst, nextStanding, show ¬ s.line.score ≤ 64 by omega, hn]) (by simp [hst])
    · exact henters .joining (by simp [hst, nextStanding, hn]) (by simp [hst])
    · exact hstays (by simp [hst, nextStanding, show ¬ s.line.score ≤ 64 by omega])
    · exact hstays (by rw [hst]; rfl)
  · show Host.Outcome.next (endJoining s) = _
    rw [endJoining, if_pos ⟨hrun, hst, hcount⟩]

/-! ## The ends of a send -/

section Dropped

variable {sd : Send} {cycle : Nat} {ended : Bool} {l : LineInterface}

theorem afterSend_sendDropped : AfterSend sd cycle ended l (sendDropped sd cycle ended l) := (sendDropped_spec ..).1

theorem sendDropped_standing (sd : Send) (cycle : Nat) (ended : Bool) (l : LineInterface) :
    (sendDropped sd cycle ended l).standing = l.standing := (sendDropped_spec ..).2.1

theorem sendDropped_score : (sendDropped sd cycle ended l).score = l.score := (sendDropped_spec ..).2.2

end Dropped

/-- The line after a send, with the score the end gives it, is still the line after that send. -/
theorem afterSend_score {sd : Send} {cycle : Nat} {ended : Bool} {l l' : LineInterface} (h : AfterSend sd cycle ended l l')
    (n : Nat) : AfterSend sd cycle ended l { l' with score := n } := h

theorem endSend_of_sending {s : State} {sd : Send} (hrun : s.running = true) (hact : s.line.activity = .sending sd)
    (acked : Bool) :
    endSend acked s =
      if acked = true then
        lowerScore false (keepOwnMark sd (s.withLine (sendDropped sd (cycleAfter sd s.line.cycle) true s.line)))
      else if (sendDropped sd (cycleAfter sd s.line.cycle) true s.line).score < 96 then
        raiseScore 8 false (s.withLine (sendDropped sd (cycleAfter sd s.line.cycle) true s.line))
      else s.withLine (sendDropped sd (cycleAfter sd s.line.cycle) true s.line) := by
  simp only [endSend, hact, hrun, if_true, dropSent_disturbed, cyclePassed_sendDropped]; rfl

/-- The own last mark capture is all that an acknowledged MARK changes (R48). -/
theorem keepOwnMark_eq (sd : Send) (s : State) (l : LineInterface) :
    keepOwnMark sd (s.withLine l) = (s.withLine l).withClock (keepOwnMark sd s).clock := by
  unfold keepOwnMark; split <;> rfl

/-- Settles O15: the packet leaves its place in three of the four ends, by `sendDropped`. -/
theorem howASendEnds : Obligations.HowASendEnds := by
  intro s sd hrun hact
  have hend (acked : Bool) : exec (.sendEnd acked) s = .next (endSend acked s) := rfl
  refine ⟨?_, fun late => ?_, ?_, ?_⟩
  · show Host.Outcome.next (loseContest s) = _
    simp only [loseContest, hact, hrun, if_true]; rfl
  · refine ⟨{ sendDropped sd (if late then cycleAfter sd s.line.cycle else s.line.cycle) s.line.sendEnded s.line with
      score := min 255 (s.line.score + 8) }, afterSend_score afterSend_sendDropped _,
      sendDropped_standing sd (if late then cycleAfter sd s.line.cycle else s.line.cycle)
        s.line.sendEnded _, rfl, ?_⟩
    show Host.Outcome.next (takeBitFault late s) = _
    simp only [takeBitFault, hact, hrun, if_true, dropSent_disturbed, cyclePassed_sendDropped]
    cases late <;> simp only [if_true, Bool.false_eq_true, if_false, raiseScore, State.withLine_line,
      sendDropped_score] <;> rfl
  · rcases Nat.lt_or_ge s.line.score 96 with hlt | hle
    · refine ⟨{ sendDropped sd (cycleAfter sd s.line.cycle) true s.line with score := min 255 (s.line.score + 8) },
        afterSend_score afterSend_sendDropped _, sendDropped_standing _ (cycleAfter sd s.line.cycle) true _, fun _ => ⟨rfl, ?_⟩,
        fun h => absurd h (Nat.not_le.mpr hlt)⟩
      rw [hend, endSend_of_sending hrun hact, if_neg Bool.false_ne_true, sendDropped_score, if_pos hlt,
        raiseScore, State.withLine_line, sendDropped_score]; rfl
    · refine ⟨sendDropped sd (cycleAfter sd s.line.cycle) true s.line, afterSend_sendDropped,
        sendDropped_standing _ (cycleAfter sd s.line.cycle) true _, fun h => absurd h (Nat.not_lt.mpr hle),
            fun _ => ⟨sendDropped_score, ?_⟩⟩
      rw [hend, endSend_of_sending hrun hact, if_neg Bool.false_ne_true, sendDropped_score,
        if_neg (Nat.not_lt.mpr hle)]
  · refine ⟨{ sendDropped sd (cycleAfter sd s.line.cycle) true s.line with score := s.line.score - 1 },
      (keepOwnMark sd s).clock, afterSend_score afterSend_sendDropped _, sendDropped_standing _ (cycleAfter sd s.line.cycle) true _, rfl,
      fun m t hm ht => by simp only [keepOwnMark, hm, ht]; rfl, fun h => ?_, ?_⟩
    · unfold keepOwnMark
      split
      · next m t hm ht =>
        rcases h with h | h
        · exact absurd hm (h m)
        · rw [ht] at h; cases h
      · rfl
    · rw [hend, endSend_of_sending hrun hact, if_pos rfl, keepOwnMark_eq, lowerScore, State.withClock_line,
        State.withLine_line, sendDropped_score]; rfl

/-! ## The internal arbiter -/

theorem mayBegin_iff (s : State) : mayBegin s = true ↔ MayBegin s := by
  simp only [mayBegin, MayBegin, State.speaks, Bool.and_eq_true, Bool.or_eq_true, decide_eq_true_eq]
  have h32 : restrainedBits * s.bitTime = 32 * bitTicks s.straps.rate := rfl
  rw [h32]
  cases s.line.standing <;> simp [and_assoc]

/-- A position's place serves the group of R21. -/
theorem groupPlace_reply (l : LineInterface) :
    groupPlace l 1 = (if l.replyQueue = [] then none else some .reply) ∧ groupPlace l 3 = groupPlace l 1 := by
  cases h : l.replyQueue <;> simp [groupPlace, h]

theorem groupPlace_publish (l : LineInterface) :
    groupPlace l 2 = (if l.obsQueue ≠ [] then some .obs else if l.tempSlot.isSome then some .temp
      else if l.rollSlot.isSome then some .roll else none) ∧ groupPlace l 4 = groupPlace l 2 := by
  cases h : l.obsQueue <;> simp [groupPlace, publishPlace, h]

theorem groupPlace_ask (l : LineInterface) : groupPlace l 5 = if l.askQueue = [] then none else some .ask := by
  cases h : l.askQueue <;> simp [groupPlace, h]

/-- The place a group names holds a packet. -/
theorem packetAt_isSome_of_groupPlace {s : State} {position : Nat} {p : Place} (h : groupPlace s.line position = some p) :
    (packetAt p s).isSome = true ∧ p ≠ .mark ∧ p ≠ .flag := by
  unfold groupPlace publishPlace at h
  split at h <;> split_ifs at h <;> cases h <;> simp_all [packetAt]

/-- The walk of R21: it stops at the first of `n` positions whose group holds a packet. -/
theorem firstInCycle_spec (l : LineInterface) (n : Nat) : ∀ position, 1 ≤ position → position ≤ 5 →
    (∃ k p, k < n ∧ firstInCycle l n position = some (p, (position - 1 + k) % 5 + 1) ∧
      groupPlace l ((position - 1 + k) % 5 + 1) = some p ∧
      ∀ j, j < k → groupPlace l ((position - 1 + j) % 5 + 1) = none) ∨
    (firstInCycle l n position = none ∧ ∀ j, j < n → groupPlace l ((position - 1 + j) % 5 + 1) = none) := by
  induction n with
  | zero => exact fun _ _ _ => .inr ⟨rfl, nofun⟩
  | succ n ih =>
    intro position h1 h5
    have hhere : (position - 1 + 0) % 5 + 1 = position := by omega
    have hnext (j : Nat) : (nextPosition position - 1 + j) % 5 + 1 = (position - 1 + (j + 1)) % 5 + 1 := by
      unfold nextPosition; omega
    unfold firstInCycle
    split
    · next p hp => exact .inl ⟨0, p, Nat.succ_pos _, by rw [hhere], by rw [hhere, hp], nofun⟩
    · next hnone =>
      rcases ih (nextPosition position) (by unfold nextPosition; omega) (by unfold nextPosition; omega) with
        ⟨k, p, hk, hfirst, hgroup, hbefore⟩ | ⟨hfirst, hbefore⟩
      · refine .inl ⟨k + 1, p, by omega, by rw [hfirst, hnext], by rw [← hnext, hgroup], fun j hj => ?_⟩
        cases j with
        | zero => rw [hhere, hnone]
        | succ j => rw [← hnext]; exact hbefore j (by omega)
      · refine .inr ⟨hfirst, fun j hj => ?_⟩
        cases j with
        | zero => rw [hhere, hnone]
        | succ j => rw [← hnext]; exact hbefore j (by omega)

/-- Five positions from anywhere go once round the cycle. -/
theorem groups_empty {l : LineInterface} {position : Nat}
    (h : ∀ j, j < 5 → groupPlace l ((position - 1 + j) % 5 + 1) = none) (h1 : 1 ≤ position) (h5 : position ≤ 5) :
    l.replyQueue = [] ∧ l.obsQueue = [] ∧ l.tempSlot = none ∧ l.rollSlot = none ∧ l.askQueue = [] := by
  have hat (q : Nat) (hq1 : 1 ≤ q) (hq5 : q ≤ 5) : groupPlace l q = none := by
    have := h ((q + 5 - position) % 5) (by omega)
    rwa [show (position - 1 + (q + 5 - position) % 5) % 5 + 1 = q by omega] at this
  have hreply := (groupPlace_reply l).1 ▸ hat 1 (by omega) (by omega)
  have hpublish := (groupPlace_publish l).1 ▸ hat 2 (by omega) (by omega)
  have hask := groupPlace_ask l ▸ hat 5 (by omega) (by omega)
  split_ifs at hreply hpublish hask
  simp_all

/-- The arbiter chooses a place that holds a packet (R21): the MARK's, else the FLAG's, else by the walk. -/
theorem choosePlace_of_hasPacket {s : State} (h1 : 1 ≤ s.line.cycle) (h5 : s.line.cycle ≤ 5) (h : s.line.hasPacket = true) :
    ∃ p position, choosePlace s.line = some (p, position) ∧ (packetAt p s).isSome = true ∧
      (s.line.markSlot.isSome = true → p = .mark ∧ position = none) ∧
      (s.line.markSlot = none → s.line.flagSlot.isSome = true → p = .flag ∧ position = none) ∧
      (s.line.markSlot = none → s.line.flagSlot = none →
        ∃ k, k < 5 ∧ position = some ((s.line.cycle - 1 + k) % 5 + 1) ∧
          groupPlace s.line ((s.line.cycle - 1 + k) % 5 + 1) = some p ∧
          ∀ j, j < k → groupPlace s.line ((s.line.cycle - 1 + j) % 5 + 1) = none) := by
  unfold choosePlace
  rcases hm : s.line.markSlot with _ | q
  · rcases hf : s.line.flagSlot with _ | w
    · rcases firstInCycle_spec s.line 5 s.line.cycle h1 h5 with ⟨k, p, hk, hfirst, hgroup, hbefore⟩ | ⟨-, hbefore⟩
      · exact ⟨p, some _, by simp [hfirst], (packetAt_isSome_of_groupPlace hgroup).1, nofun, nofun,
          fun _ _ => ⟨k, hk, rfl, hgroup, hbefore⟩⟩
      · obtain ⟨hr, ho, ht, hrl, ha⟩ := groups_empty hbefore h1 h5
        simp [LineInterface.hasPacket, hm, hf, hr, ho, ht, hrl, ha] at h
    · exact ⟨.flag, none, by simp, by simp [packetAt, hf], nofun, fun _ _ => ⟨rfl, rfl⟩, nofun⟩
  · exact ⟨.mark, none, by simp, by simp [packetAt, hm], fun _ => ⟨rfl, rfl⟩, nofun, nofun⟩

theorem choosePlace_of_empty {l : LineInterface} (h : l.hasPacket = false) : choosePlace l = none := by
  simp only [LineInterface.hasPacket, Bool.or_eq_false_iff, Bool.not_eq_false', List.isEmpty_iff] at h
  obtain ⟨⟨⟨⟨⟨⟨hm, hf⟩, hr⟩, ha⟩, ho⟩, ht⟩, hrl⟩ := h
  have hgroup (position : Nat) : groupPlace l position = none := by
    unfold groupPlace publishPlace
    split <;> simp [hr, ha, ho, ht, hrl]
  have hwalk (n position : Nat) : firstInCycle l n position = none := by
    induction n generalizing position with
    | zero => rfl
    | succ n ih => simp only [firstInCycle, hgroup, ih]
  simp [choosePlace, hm, hf, hwalk]

/-- The 11 bytes of a MARK (Figure 12-4). -/
theorem payloadBytes_mark (q : BitVec 8) (s : State) :
    payloadBytes (.mark (markToSend q s)) =
      [q] ++ (match s.clock.ownMark with | some c => c.seq :: timeBytes c.time | none => 255#8 :: List.replicate 7 0#8)
        ++ [BitVec.ofNat 8 s.clock.grade,
            BitVec.ofNat 8 ((if s.clock.timeState = .unset then 1 else 0)
              + (if s.straps.role = .clock ∧ s.clock.refLocked = true then 2 else 0))] := by
  have hflags : markFlags (markToSend q s) = BitVec.ofNat 8 ((if s.clock.timeState = .unset then 1 else 0)
      + (if s.straps.role = .clock ∧ s.clock.refLocked = true then 2 else 0)) := by
    unfold markFlags markToSend
    cases s.clock.timeState <;> cases s.clock.refLocked <;> cases s.straps.role <;> rfl
  rw [← hflags]
  unfold payloadBytes markToSend
  cases s.clock.ownMark <;> rfl

theorem sendOf_check (p : Place) (position : Option Nat) (x : Packet) (s : State) :
    (sendOf p position x s).check = frameCheck (sendOf p position x s).header (sendOf p position x s).payload := by
  simp only [sendOf]

/-- Settles O14. -/
theorem sendBeginsWithTheArbitersChoice : Obligations.SendBeginsWithTheArbitersChoice := by
  intro s h1 h5
  have hexec : exec .sendBegin s = .next (beginSend s) := rfl
  refine ⟨fun ⟨hmay, hpacket⟩ => ?_, fun hnot => ?_, (groupPlace_reply _).1, (groupPlace_publish _).1,
    (groupPlace_reply _).2.trans (groupPlace_reply _).1, (groupPlace_publish _).2.trans (groupPlace_publish _).1,
    groupPlace_ask _⟩
  · obtain ⟨p, position, hchoose, hsome, hmark, hflag, hcycle⟩ := choosePlace_of_hasPacket h1 h5 hpacket
    obtain ⟨x, hx⟩ := Option.isSome_iff_exists.mp hsome
    refine ⟨sendOf p position x s, ?_, rfl, rfl, hx, rfl, rfl, sendOf_check .., hmark, hflag, hcycle, ?_, ?_, ?_, ?_, ?_, ?_, ?_⟩
    · rw [hexec, beginSend, if_pos ((mayBegin_iff s).mpr hmay)]
      simp only [hchoose, hx]; rfl
    · rintro w hw (rfl : p = .flag)
      exact (by simpa [packetAt, hw, eq_comm] using hx : x = .flag w)
    · rintro (rfl : p = .reply)
      obtain ⟨r, hr, rfl⟩ := Option.map_eq_some_iff.mp hx
      exact ⟨r, hr, rfl⟩
    · rintro (rfl : p = .ask)
      obtain ⟨a, ha, rfl⟩ := Option.map_eq_some_iff.mp hx
      exact ⟨a, ha, rfl⟩
    · rintro (rfl : p = .obs)
      obtain ⟨o, ho, rfl⟩ := Option.map_eq_some_iff.mp hx
      exact ⟨o, ho, rfl⟩
    · rintro (rfl : p = .temp)
      obtain ⟨t, ht, rfl⟩ := Option.map_eq_some_iff.mp hx
      exact ⟨t, ht, rfl⟩
    · rintro (rfl : p = .roll)
      obtain ⟨r, hr, rfl⟩ := Option.map_eq_some_iff.mp hx
      exact ⟨r, hr, rfl⟩
    · intro q hq
      obtain ⟨rfl, -⟩ := hmark (by simp [hq])
      obtain rfl : Packet.mark (markToSend q s) = x := by simpa [packetAt, hq] using hx
      exact payloadBytes_mark q s
  · rw [hexec, beginSend]
    split
    · next hmay =>
      have hempty : s.line.hasPacket = false := by
        simpa using fun hp => hnot ⟨(mayBegin_iff s).mp hmay, hp⟩
      rw [choosePlace_of_empty hempty]
    · rfl

end Sys2Proof.StationLine

/-! The frame a node builds (R4, R6) before a receiver's judgment (R11). -/

namespace Sys2Proof.Frame

open Sys2Proof.Machine

theorem frameHeader_toNat (cls : PacketClass) (src : Station) {n : Nat} (h : n < 64) :
    (frameHeader cls src n).toNat = cls.code.toNat * 2048 + src.toNat * 64 + n := by
  have hsrc := src.isLt
  have hlow : (src ++ BitVec.ofNat 6 n).toNat = src.toNat * 64 + n := by
    rw [BitVec.toNat_append, ← Nat.shiftLeft_add_eq_or_of_lt (BitVec.isLt _), Nat.shiftLeft_eq, BitVec.toNat_ofNat,
      Nat.mod_eq_of_lt h]
  have hall : frameHeader cls src n = cls.code ++ (src ++ BitVec.ofNat 6 n) := BitVec.append_assoc ..
  rw [hall, BitVec.toNat_append, ← Nat.shiftLeft_add_eq_or_of_lt (BitVec.isLt _), Nat.shiftLeft_eq, hlow]
  omega

theorem code_lt_seven (cls : PacketClass) : cls.code.toNat < 7 := by cases cls <;> decide

/-- A register that takes its own bits in from the top shifts itself out: each bit meets itself. -/
theorem foldl_checkBit_own (r : BitVec 16) (n : Nat) : ((List.range n).map r.getMsbD).foldl checkBit r = r <<< n := by
  induction n with
  | zero => simp
  | succ n ih =>
    rw [List.range_succ, List.map_append, List.foldl_append, ih, List.map_singleton, List.foldl_cons, List.foldl_nil,
      checkBit, BitVec.msb_shiftLeft, bne_self_eq_false, if_neg Bool.false_ne_true, ← BitVec.shiftLeft_add]

theorem foldl_checkBit_check (l : List Bool) (r : BitVec 16) :
    (l ++ msbFirst (l.foldl checkBit r)).foldl checkBit r = 0#16 := by
  rw [List.foldl_append, msbFirst, foldl_checkBit_own, BitVec.shiftLeft_eq_zero le_rfl]

theorem coveredBits_length (header : BitVec 14) (payload : List Byte) :
    (coveredBits header payload).length = 14 + 8 * payload.length := by
  have hbytes : (payload.flatMap msbFirst).length = 8 * payload.length := by
    rw [List.length_flatMap]
    simp [msbFirst, Nat.mul_comm]
  rw [coveredBits, List.length_append, hbytes, msbFirst, List.length_map, List.length_range]

/-- Settles O19. -/
theorem builtFrameIsGood : Obligations.BuiltFrameIsGood := by
  intro cls src payload hlen
  have hheader := frameHeader_toNat cls src (n := payload.length) (by omega)
  have hcode := code_lt_seven cls
  have hsrc := src.isLt
  refine ⟨?_, foldl_checkBit_check _ _, ?_⟩
  · simp only [goodFrame, Bool.and_eq_true, decide_eq_true_eq, hheader, and_true]
    omega
  · rw [frameBits, List.length_cons, List.length_append, coveredBits_length, msbFirst, List.length_map, List.length_range]
    omega

end Sys2Proof.Frame

/-! The short statements on presence, offers, the time reference and time agreement (Sections 2 to 5, 8). -/

namespace Sys2Proof.Presence

open Sys2Proof.Machine
open Sys2Proof.StormJudgement (orNow_eq_hutOr)

theorem namesPeer_iff (n : Station) : namesPeer n = true ↔ Numbered n := by simp [namesPeer]

theorem modifyPeer_of_numbered {n : Station} (h : Numbered n) (p : PresenceBlock) (f : Peer → Peer) :
    p.modifyPeer n f = { p with peers := p.peers.modify (n.toNat - 1) f } :=
  if_pos ((namesPeer_iff n).mpr h)

theorem silenceOver_iff {s : State} {n : Station} {t : HutTime} (hn : Numbered n)
    (hpresent : (s.presence.peer n).presence = .present) (hheard : (s.presence.peer n).lastHeard = some t) :
    silenceOver n s = true ↔ 30000000 ≤ s.clock.time.diff t := by
  simp [silenceOver, (namesPeer_iff n).mpr hn, hpresent, hheard, presenceTicks, -decide_eq_true_eq]
  exact decide_eq_true_iff

theorem becomeAbsent_of_numbered {n : Station} (hn : Numbered n) (s : State) :
    becomeAbsent n s =
      retireQueries (fun q => decide (q.target = n))
        (withPeers s (s.presence.peers.modify (n.toNat - 1) fun e =>
          { e with presence := .absent, capture := none, sample := none, wires := .clear })) := by
  rw [becomeAbsent, modifyPeer_of_numbered hn, PresenceBlock.recomputed, orNow_eq_hutOr]; rfl

/-- Settles O20. -/
theorem silentStationBecomesAbsent : Obligations.SilentStationBecomesAbsent := by
  intro s n t hrun hn hpresent hheard
  have hiff := silenceOver_iff hn hpresent hheard
  have hexec : exec (.presenceExpiry n) s =
      .next (if s.running = true ∧ silenceOver n s = true then becomeAbsent n s else s) := rfl
  refine ⟨fun h => ?_, fun h => ?_⟩
  · rw [hexec, if_neg fun hboth => absurd (hiff.mp hboth.2) (not_le.mpr h)]
  · rw [hexec, if_pos ⟨hrun, hiff.mpr h⟩, becomeAbsent_of_numbered hn]

/-! ## The disturbance inputs -/

theorem setOwn_of_ne {w : WireSet} {s : State} (h : w ≠ s.presence.own) :
    setOwn w s = offerFlag w (s.withPresence
      { s.presence with own := w, wireOr := hutOr w s.presence.peers }) := by
  rw [setOwn, if_neg h, PresenceBlock.recomputed, orNow_eq_hutOr]

/-- Settles O21. -/
theorem disturbanceInputIsDebounced : Obligations.DisturbanceInputIsDebounced := by
  intro s hrun _
  refine ⟨fun active => ?_, fun active => ?_, fun hcount hlevel => ?_, fun hcount hlevel => ?_, fun w t h => ?_,
    fun w t h => ?_⟩
  · show Host.Outcome.next (changeInput .door active s) = _
    unfold changeInput
    by_cases h : active = s.presence.own.door
    · rw [if_pos ⟨hrun, h⟩, if_pos h]; rfl
    · rw [if_neg fun hb => h hb.2, if_neg h]; rfl
  · show Host.Outcome.next (changeInput .heater active s) = _
    unfold changeInput
    by_cases h : active = s.presence.own.heater
    · rw [if_pos ⟨hrun, h⟩, if_pos h]; rfl
    · rw [if_neg fun hb => h hb.2, if_neg h]; rfl
  · show Host.Outcome.next (expireDebounce .door s) = _
    rw [expireDebounce, if_pos ⟨hrun, hcount, hlevel⟩, setOwn_of_ne fun h => hlevel (congrArg WireSet.door h)]; rfl
  · show Host.Outcome.next (expireDebounce .heater s) = _
    rw [expireDebounce, if_pos ⟨hrun, hcount, hlevel⟩, setOwn_of_ne fun h => hlevel (congrArg WireSet.heater h)]; rfl
  · exact if_pos h
  · exact if_neg (by simp [h])

/-! ## The packets due at a whole second -/

theorem nextMarkSeq_eq (q : BitVec 8) : nextMarkSeq q = if q.toNat < 254 then q + 1#8 else 0#8 := by
  unfold nextMarkSeq
  rcases Nat.lt_or_ge q.toNat 254 with h | h
  · rw [if_neg (Nat.not_le.mpr h), if_pos h]
  · rw [if_pos h, if_neg (Nat.not_lt.mpr h)]

theorem offerMark_eq (q : BitVec 8) (s : State) :
    offerMark q s = s.withLine
      (if s.accepts then { s.line with markSlot := some q, activity := s.line.activity.replacedAt .mark } else s.line) := by
  unfold offerMark; cases s.accepts <;> rfl

theorem offerRoll_eq (x : RollSummary) (s : State) :
    offerRoll x s = s.withLine
      (if s.accepts then { s.line with rollSlot := some x, activity := s.line.activity.replacedAt .roll } else s.line) := by
  unfold offerRoll; cases s.accepts <;> rfl

theorem offerTemp_eq (x : TempPacket) (s : State) :
    offerTemp x s = s.withLine
      (if s.accepts then { s.line with tempSlot := some x, activity := s.line.activity.replacedAt .temp } else s.line) := by
  unfold offerTemp; cases s.accepts <;> rfl

/-- Settles O24: an offer takes its slot exactly where the standing accepts packets. -/
theorem duePacketsAreOffered : Obligations.DuePacketsAreOffered := by
  intro s
  refine ⟨fun hheld hdue => ?_, fun hrun hdue => ?_, fun hrun hdue => ?_⟩
  · show Host.Outcome.next (if s.held = false ∧ s.due.mark = true then offerOwnMark s else s) = _
    rw [if_pos ⟨hheld, hdue⟩, offerOwnMark, nextMarkSeq_eq, offerMark_eq]; rfl
  · show Host.Outcome.next (if s.running = true ∧ s.due.roll = true then
      offerRoll (rollSummary s) (s.withDue { s.due with roll := false }) else s) = _
    rw [if_pos ⟨hrun, hdue⟩, offerRoll_eq]; rfl
  · show Host.Outcome.next (if s.running = true ∧ s.due.temp = true then
      offerTemp (ownTemp s) (s.withDue { s.due with temp := false }) else s) = _
    rw [if_pos ⟨hrun, hdue⟩, offerTemp_eq]; rfl

/-! ## The time reference -/

/-- Settles O27. -/
theorem clockRoleFollowsItsReference : Obligations.ClockRoleFollowsItsReference := by
  intro s hrun
  have hlock (active : Bool) : exec (.lockChange active) s = .next (changeLock active s) := rfl
  have hpps : exec .ppsEdge s = .next (takePps s) := rfl
  have hage : exec .ppsAgeExpiry s = .next (if followsReference s = true ∧ ppsAgeLimit ≤ s.clock.ppsAge then
      s.withClock { s.clock with refLocked := false } else s) := rfl
  refine ⟨fun hrole => ?_, fun hrole => ?_⟩
  · have hfollows : followsReference s = true := by simp [followsReference, hrun, hrole]
    refine ⟨?_, ?_, fun h => ?_, fun h => ?_, fun h => ?_⟩
    · rw [hlock, changeLock, if_pos hfollows]; rfl
    · rw [hlock, changeLock, if_pos hfollows]; rfl
    · rw [hage, if_pos ⟨hfollows, h⟩]
    · rw [hpps, takePps, if_pos hfollows, if_neg (by simp [h])]
    · have hadd (d : Int) (l : List Int) : addPpsSample d l = (if l.length < 8 then l else l.tail) ++ [d] := by
        unfold addPpsSample; exact (apply_ite (· ++ [d]) _ _ _).symm
      rw [hpps, takePps, if_pos hfollows, if_pos h, hadd]; rfl
  · have hfollows : followsReference s = false := by simp [followsReference, hrole]
    refine ⟨?_, ?_, fun active => ?_⟩
    · rw [hpps, takePps, if_neg (by simp [hfollows])]
    · rw [hage, if_neg (by simp [hfollows])]
    · rw [hlock, changeLock, if_neg (by simp [hfollows])]

/-! ## Rounding -/

/-- Half-way cases go away from zero: below a half, or at it, the rounded-up quotient of a magnitude is taken. -/
theorem ediv_half_up {m d : Int} (hd : 0 < d) (hhalf : 2 * (m - (2 * m + d) / (2 * d) * d).natAbs = d.natAbs) :
    m < (2 * m + d) / (2 * d) * d := by
  have hhigh := Int.lt_ediv_add_one_mul_self (2 * m + d) (b := 2 * d) (by omega)
  have hhigh' : 2 * m < 2 * ((2 * m + d) / (2 * d) * d) + d := by linarith
  generalize (2 * m + d) / (2 * d) * d = x at *
  omega

/-- Settles O28. -/
theorem divisionRoundsToNearest : Obligations.DivisionRoundsToNearest := by
  refine ⟨fun n d hd => ⟨?_, fun hhalf => ?_⟩, rfl, rfl, rfl⟩
  · obtain ⟨hlow, hhigh⟩ := TrimmedMean.divRound_near n hd
    generalize divRound n d * d = x at *
    omega
  · rcases lt_or_ge n 0 with hn | hn
    · have hq : divRound n d * d = -((2 * -n + d) / (2 * d) * d) := by rw [divRound, if_neg (by omega), neg_mul]
      rw [hq] at hhalf ⊢
      have := ediv_half_up (m := -n) hd (by omega)
      omega
    · have hq : divRound n d = (2 * n + d) / (2 * d) := if_pos hn
      rw [hq] at hhalf ⊢
      have := ediv_half_up hd hhalf
      omega

/-! ## The samples that count -/

theorem lowestGrade_le {l : List OffsetSample} {d : OffsetSample} (h : d ∈ l) : lowestGrade l ≤ d.grade := by
  induction l with
  | nil => cases h
  | cons x rest ih =>
    show min x.grade (lowestGrade rest) ≤ d.grade
    rcases List.mem_cons.mp h with rfl | h
    · exact min_le_left _ _
    · exact (min_le_right _ _).trans (ih h)

theorem lowestGrade_mem {l : List OffsetSample} (hne : l ≠ []) (h7 : ∀ d ∈ l, d.grade ≤ 7) :
    ∃ d ∈ l, d.grade = lowestGrade l := by
  induction l with
  | nil => exact absurd rfl hne
  | cons x rest ih =>
    have hrec : lowestGrade (x :: rest) = min x.grade (lowestGrade rest) := rfl
    rcases le_total x.grade (lowestGrade rest) with hle | hle
    · exact ⟨x, List.mem_cons_self, by rw [hrec, min_eq_left hle]⟩
    · rw [hrec, min_eq_right hle]
      rcases rest with _ | ⟨y, rest⟩
      · exact ⟨x, List.mem_cons_self, le_antisymm (h7 x List.mem_cons_self) hle⟩
      · obtain ⟨d, hd, hgrade⟩ := ih (by simp) fun d hd => h7 d (List.mem_cons_of_mem _ hd)
        exact ⟨d, List.mem_cons_of_mem _ hd, hgrade⟩

/-- Settles O30. -/
theorem gradeFollowsTheBestSamples : Obligations.GradeFollowsTheBestSamples := by
  intro s locked fresh
  have hfresh : freshSamples s.presence = fresh := rfl
  refine ⟨fun h => ?_, fun h hnone => ?_, fun h hsome h7 => ?_, fun h => ?_⟩
  · have hcase : roundCase s = .reference := if_pos h
    simp only [roundGrade, candidates, hcase, and_self]
  · have hcase : roundCase s = .noSamples := by
      rw [roundCase, if_neg h, hfresh, if_neg (by simp [hnone])]
    simp only [roundGrade, candidates, hcase, and_self]
  · have hcase : roundCase s = .peer := by rw [roundCase, if_neg h, hfresh, if_pos hsome]
    obtain ⟨d, hd, hgrade⟩ := lowestGrade_mem hsome h7
    refine ⟨lowestGrade fresh, ⟨d, hd, hgrade⟩, fun d hd => lowestGrade_le hd, fun h6 => ?_, fun hg => ?_⟩
    · simp only [roundGrade, candidates, hcase, hfresh, if_neg (show lowestGrade fresh ≠ 7 by omega), List.append_nil,
        and_true]
      omega
    · have hall : (fresh.filter fun d => decide (d.grade = 7)) = fresh :=
        List.filter_eq_self.mpr fun d hd => by
          have := lowestGrade_le hd
          have := h7 d hd
          simp; omega
      simp only [roundGrade, candidates, hcase, hfresh, hg, hall, if_true, and_true]
      omega
  · by_contra hnot
    have hcase : roundCase s ≠ .reference := by
      rw [roundCase, if_neg hnot]; split <;> simp
    unfold roundGrade at h
    split at h
    · next hr => exact hcase hr
    · omega
    · omega

/-! ## A round end without a step -/

theorem clampInt_eq {lo hi : Int} (h : lo ≤ hi) (x : Int) : clampInt lo hi x = max lo (min hi x) := by
  unfold clampInt; split_ifs <;> omega

theorem takeRoundEnd_of_slew {s : State} {x r : Int} (h : roundOrder s = .slew x r) :
    takeRoundEnd s =
      ((((s.withClock
          { s.clock with grade := roundGrade s, timeState := .set, slew := x, rateTrim := r, ppsSamples := [] }).withEngine
        { roundBegin := s.clock.time, lastRoundEnd := some s.due.second.sec
          lastCorrection := correction (candidates s) }).withPresence
          { s.presence with peers := s.presence.peers.map fun e => { e with sample := none } }).withDue
            { s.due with roundEnd := false }) := by
  simp only [takeRoundEnd, h]; rfl

/-- Settles O31. -/
theorem roundEndWithoutAStep : Obligations.RoundEndWithoutAStep := by
  intro s hrun hdue
  have hexec : exec .roundEnd s = .next (takeRoundEnd s) := by
    show Host.Outcome.next (if s.running = true ∧ s.due.roundEnd = true then takeRoundEnd s else s) = _
    rw [if_pos ⟨hrun, hdue⟩]
  have hlimit : trimLimit = 50000 := rfl
  refine ⟨fun hset hsome hlow hhigh => ?_, fun hset hnone => ?_, fun hunset hzero => ?_⟩
  · have hsmall : ¬ stepThreshold ≤ ((correction (candidates s)).natAbs : Int) := by
      have : stepThreshold = 10000 := rfl
      omega
    rw [hexec, takeRoundEnd_of_slew (x := slewFor (correction (candidates s)))
      (r := trimFor s.clock.rateTrim (correction (candidates s)))
      (by simp only [roundOrder, hset, if_neg hsome, if_neg hsmall]),
      slewFor, trimFor, clampInt_eq (by decide), clampInt_eq (by decide), hlimit]
  · refine ⟨by rw [hnone]; rfl, ?_⟩
    rw [hexec, takeRoundEnd_of_slew (x := 0) (r := s.clock.rateTrim) (by simp only [roundOrder, hset, if_pos hnone])]
  · rw [hexec, takeRoundEnd_of_slew (x := 0) (r := s.clock.rateTrim)
      (by simp only [roundOrder, hunset, if_pos hzero])]

/-! ## SYNC and bits -/

theorem takeBit_of_open {s : State} {o : OpenSet} {bit : Bool} (ho : s.port.openSet = some o)
    (hopen : (o.push bit).complete s.straps.role = false) :
    takeBit bit s = s.withPort { s.port with openSet := some (o.push bit) } := by
  simp only [takeBit, ho, hopen, Bool.false_eq_true, if_false]

/-- Settles O33. -/
theorem syncAndBitsAssembleASet : Obligations.SyncAndBitsAssembleASet := by
  intro s hrun
  have hexec (bit : Bool) : exec (.serialClockEdge bit) s = .next (takeBit bit s) := by
    show Host.Outcome.next (if s.running then takeBit bit s else s) = _
    rw [if_pos hrun]
  refine ⟨?_, fun hnone bit => ?_, fun o bit ho hlen hbits => ?_, fun o bit ho hlen hbits => ?_⟩
  · show Host.Outcome.next (takeSync s) = _
    rw [takeSync, if_pos hrun]
  · rw [hexec, takeBit, hnone]
  · have hpush : o.push bit =
        { o with bits := o.bits + 1, shift := (o.shift <<< 1) ||| BitVec.ofNat 24 bit.toNat } :=
      if_neg (by omega)
    have hopen : (o.push bit).complete s.straps.role = false := by
      simp only [OpenSet.complete, hpush, decide_eq_false_iff_not]; omega
    rw [hexec, takeBit_of_open ho hopen, hpush]
  · have hpush : o.push bit =
        { o with words := o.words ++ [(o.shift <<< 1) ||| BitVec.ofNat 24 bit.toNat], bits := 0, shift := 0#24 } :=
      if_pos (by omega)
    have hopen : (o.push bit).complete s.straps.role = false := by
      simp only [OpenSet.complete, hpush, List.length_append, List.length_singleton, decide_eq_false_iff_not]; omega
    rw [hexec, takeBit_of_open ho hopen, hpush]

/-! ## Query timeout -/

/-- Tags are distinct, so the query of a tag is the only one that can be over. -/
theorem queryOver_iff {s : State} {q : PendingQuery} (hinv : QueryInv s.query) (hq : q ∈ s.query.queries) :
    queryOver q.tag s = true ↔ 2500000 ≤ s.clock.time.diff q.issue := by
  obtain ⟨-, -, htags⟩ := hinv
  have honly (x : PendingQuery) (hx : x ∈ s.query.queries) (htag : x.tag = q.tag) : x = q :=
    List.inj_on_of_nodup_map htags hx hq htag
  rw [queryOver, List.any_eq_true]
  refine ⟨?_, fun h => ⟨q, hq, decide_eq_true ⟨rfl, h⟩⟩⟩
  rintro ⟨x, hx, hover⟩
  obtain ⟨htag, hage⟩ := of_decide_eq_true hover
  exact honly x hx htag ▸ hage

/-- Settles O44. -/
theorem queryTimesOut : Obligations.QueryTimesOut := by
  refine ⟨fun s tag q hrun hinv hq htag => ?_, fun s gone => ?_⟩
  · subst htag
    have hiff := queryOver_iff hinv hq
    have hexec : exec (.queryTimeout q.tag) s =
        .next (if s.running = true ∧ queryOver q.tag s = true then timeOutQuery q.tag s else s) := rfl
    refine ⟨fun h => ?_, fun h => ?_⟩
    · rw [hexec, if_neg fun hb => absurd (hiff.mp hb.2) (not_le.mpr h)]
    · rw [hexec, if_pos ⟨hrun, hiff.mpr h⟩]; rfl
  · exact removeAsks_spec _ _

end Sys2Proof.Presence

/-! The byte codec of Section 12, and the packets that a node takes from other stations. -/

namespace Sys2Proof.Codec

open Sys2Proof.Machine

/-! ## Numbers in bytes -/

theorem beBytes_length (k v : Nat) : (beBytes k v).length = k := by
  induction k with
  | zero => rfl
  | succ k ih => simp [beBytes, ih]

theorem foldl_beBytes (k v acc : Nat) :
    (beBytes k v).foldl (fun a b => a * 256 + b.toNat) acc = acc * 256 ^ k + v % 256 ^ k := by
  induction k generalizing acc with
  | zero => simp [beBytes, Nat.mod_one]
  | succ k ih =>
    have hsplit : v % 256 ^ (k + 1) = v / 256 ^ k % 256 * 256 ^ k + v % 256 ^ k := by
      rw [pow_succ, Nat.mod_mul]; ring
    rw [beBytes, List.foldl_cons, ih, BitVec.toNat_ofNat, hsplit]
    ring

theorem beNat_beBytes {k v : Nat} (h : v < 256 ^ k) : beNat (beBytes k v) = v := by
  rw [beNat, foldl_beBytes, Nat.mod_eq_of_lt h]; omega

/-- A value within the two's complement range of `k` bytes reads back. -/
theorem beInt_beSigned {k : Nat} {x : Int} (hlow : -((256 ^ k : Nat) : Int) ≤ 2 * x) (hhigh : 2 * x < ((256 ^ k : Nat) : Int)) :
    beInt (beSigned k x) = x := by
  have hpos : 0 < 256 ^ k := by positivity
  have hlen : (beSigned k x).length = k := beBytes_length _ _
  have hmod : 0 ≤ x % ((256 ^ k : Nat) : Int) ∧ x % ((256 ^ k : Nat) : Int) < ((256 ^ k : Nat) : Int) :=
    ⟨Int.emod_nonneg _ (by omega), Int.emod_lt_of_pos _ (by exact_mod_cast hpos)⟩
  have hval : beNat (beSigned k x) = (x % ((256 ^ k : Nat) : Int)).toNat := beNat_beBytes (by omega)
  rw [beInt, hlen, hval]
  generalize 256 ^ k = m at *
  rcases lt_or_ge x 0 with hx | hx
  · have hxm : x % (m : Int) = x + m := by
      rw [← Int.add_emod_right, Int.emod_eq_of_lt (by omega) (by omega)]
    rw [hxm, if_neg (by omega)]; omega
  · have hxm : x % (m : Int) = x := Int.emod_eq_of_lt hx (by omega)
    rw [hxm, if_pos (by omega)]; omega

/-! ## Hut times, slots and temperature lists -/

theorem parseTime_timeBytes {t : HutTime} (h : t.wf = true) : parseTime (timeBytes t) = some t := by
  have htick : t.tick < 10000000 := of_decide_eq_true h
  have hsec : beNat (bytesAt (timeBytes t) 0 4) = t.sec.toNat := beNat_beBytes (k := 4) (by have := t.sec.isLt; omega)
  have hlow : beNat (bytesAt (timeBytes t) 4 3) = t.tick := beNat_beBytes (k := 3) (by omega)
  rw [parseTime, hlow, hsec, if_pos (show t.tick < ticksPerSecond from htick), BitVec.ofNat_toNat, BitVec.setWidth_eq]

/-- A slot has four bytes. -/
theorem slotBytes_eq (o : Option Int) : ∃ a b c d, slotBytes o = [a, b, c, d] := by
  cases o <;> exact ⟨_, _, _, _, rfl⟩

theorem deltaBytes_eq (o : Option Int) : ∃ a b, deltaBytes o = [a, b] := by
  cases o <;> exact ⟨_, _, rfl⟩

theorem parseSlot_slotBytes {o : Option Int} (h : ∀ v, o = some v → -2147483648 < v ∧ v < 2147483648) :
    parseSlot (slotBytes o) = o := by
  cases o with
  | none =>
    rw [parseSlot, slotBytes, beInt_beSigned (by norm_num) (by norm_num), if_pos rfl]
  | some v =>
    obtain ⟨hlow, hhigh⟩ := h v rfl
    rw [parseSlot, slotBytes, beInt_beSigned (by norm_num; omega) (by norm_num; omega), if_neg (by norm_num; omega)]

theorem tempList_beSigned {temps : List Int} (h : ∀ x ∈ temps, -32768 ≤ x ∧ x ≤ 32767) :
    tempList (temps.flatMap (beSigned 2)) = temps := by
  induction temps with
  | nil => rfl
  | cons x rest ih =>
    obtain ⟨hlow, hhigh⟩ := h x List.mem_cons_self
    have hx : beInt (beSigned 2 x) = x := beInt_beSigned (by norm_num; omega) (by norm_num; omega)
    have hcons : tempList ((x :: rest).flatMap (beSigned 2)) = beInt (beSigned 2 x) :: tempList (rest.flatMap (beSigned 2)) :=
      rfl
    rw [hcons, hx, ih fun y hy => h y (List.mem_cons_of_mem _ hy)]

theorem flatMap_beSigned_length (temps : List Int) : (temps.flatMap (beSigned 2)).length = 2 * temps.length := by
  induction temps with
  | nil => rfl
  | cons x rest ih => rw [List.flatMap_cons, List.length_append, ih, List.length_cons, beSigned, beBytes_length]; omega

theorem bytesAt_bytesAt (p : List Byte) (i j n m : Nat) (h : j + n ≤ m) : bytesAt (bytesAt p i m) j n = bytesAt p (i + j) n := by
  unfold bytesAt
  rw [List.drop_take, List.take_take, List.drop_drop, min_eq_left (by omega)]

/-! ## Payloads that do not fit (R170) -/

theorem parseTime_eq_none {p : List Byte} (h : 10000000 ≤ beNat (bytesAt p 4 3)) : parseTime p = none :=
  if_neg (Nat.not_lt.mpr h)

theorem parseMark_eq_none {p : List Byte}
    (h : p.length ≠ 11 ∨ byteAt p 0 = 255#8 ∨ 7 < (byteAt p 9).toNat ∨ 10000000 ≤ beNat (bytesAt p 6 3)) :
    parseMark p = none := by
  unfold parseMark
  split
  · next hfit =>
    obtain ⟨hlen, hseq, hgrade⟩ := hfit
    have htick : 10000000 ≤ beNat (bytesAt (bytesAt p 2 7) 4 3) := by
      rw [bytesAt_bytesAt _ _ _ _ _ (by omega)]
      rcases h with h | h | h | h
      · exact absurd hlen h
      · exact absurd h hseq
      · omega
      · exact h
    rw [parseTime_eq_none htick, Option.map_none]
  · rfl

theorem parseRoll_eq_none {p : List Byte}
    (h : p.length ≠ 11 ∨ 3 < (byteAt p 0).toNat ∨ 3 < (byteAt p 1).toNat ∨ 1 < (byteAt p 3).toNat ∨
      7 < (byteAt p 4).toNat ∨ 1 < (byteAt p 10).toNat) : parseRoll p = none := if_neg (by omega)

theorem parseTemp_eq_none {p : List Byte}
    (h : 3 < (byteAt p 0).toNat ∨ (byteAt p 1).toNat = 0 ∨ 4 < (byteAt p 1).toNat ∨
      p.length ≠ 2 + 2 * (byteAt p 1).toNat) : parseTemp p = none := if_neg (by omega)

theorem parseReply_eq_none {p : List Byte}
    (h : p.length < 4 ∨ (byteAt p 2).toNat = 0 ∨ 11 < (byteAt p 2).toNat ∨ 7 < (byteAt p 3).toNat) :
    parseReply p = none := by
  refine if_neg fun ⟨hlen, hquestion, hstatus⟩ => ?_
  simp only [isQuestion, Bool.and_eq_true, decide_eq_true_eq] at hquestion
  omega

theorem roleOfCode_eq_none {n : Nat} (h : 3 < n) : roleOfCode n = none := by
  obtain ⟨m, rfl⟩ := Nat.exists_eq_add_of_le' h
  rfl

theorem parseObs_record_eq_none {p : List Byte} (h0 : byteAt p 0 = 0#8)
    (h : p.length ≠ 41 ∨ byteAt p 1 ≠ 0#8 ∨ 3 < (byteAt p 2).toNat ∨ 10000000 ≤ beNat (bytesAt p 10 3) ∨
      7 < (byteAt p 16).toNat ∨ 2 < (byteAt p 37).toNat) : parseObs p = none := by
  unfold parseObs
  split
  · next hlen =>
    split
    · next hfit =>
      obtain ⟨hkind, hgrade, hcause⟩ := hfit
      rcases h with h | h | h | h | h | h
      · exact absurd hlen.1 h
      · exact absurd hkind h
      · rw [roleOfCode_eq_none h]
      · rw [parseTime_eq_none (by rwa [bytesAt_bytesAt _ _ _ _ _ (by omega)])]
        split <;> simp_all
      · omega
      · omega
    · rfl
  · exact if_neg fun h' => by rw [h0] at h'; exact absurd h'.2 (by decide)

theorem parseObs_fence_eq_none {p : List Byte} (h1 : byteAt p 0 = 1#8)
    (h : p.length ≠ 14 ∨ byteAt p 3 ≠ 9#8 ∨ byteAt p 4 ≠ 0#8 ∨ 10000000 ≤ beNat (bytesAt p 9 3)) :
    parseObs p = none := by
  unfold parseObs
  rw [if_neg fun h' => by rw [h1] at h'; exact absurd h'.2 (by decide)]
  split
  · next hlen =>
    refine if_neg fun ⟨hquestion, hstatus, htime⟩ => ?_
    rcases h with h | h | h | h
    · exact h hlen.1
    · exact h hquestion
    · exact h hstatus
    · rw [parseTime_eq_none (by rwa [bytesAt_bytesAt _ _ _ _ _ (by omega)])] at htime
      cases htime
  · rfl

theorem parseObs_eq_none {p : List Byte} (h : 1 < (byteAt p 0).toNat ∨ (p.length ≠ 41 ∧ p.length ≠ 14)) :
    parseObs p = none := by
  unfold parseObs
  rw [if_neg, if_neg]
  · rintro ⟨hlen, hbyte⟩
    rw [hbyte, hlen] at h
    simp at h
  · rintro ⟨hlen, hbyte⟩
    rw [hbyte, hlen] at h
    simp at h

end Sys2Proof.Codec

/-! What a packet taken from another station does (Sections 2, 3 and 12). -/

namespace Sys2Proof.Reception

open Sys2Proof.Machine
open Sys2Proof.StationLine (received_eq receivePacket_of_takes heard_endReception)
open Sys2Proof.Presence (namesPeer_iff modifyPeer_of_numbered)
open Sys2Proof.StormJudgement (orNow_eq_hutOr)
open Sys2Proof.Codec
open Sys2Proof.Keeping (heard_keeps keeps_modifyPeer_same)

/-! ## Packets and their owners -/

section Owners

variable {s : State} {src : Station} (h : Takes src s) (p : List Byte)
include h

theorem exec_flagReceived : exec (.flagReceived src p) s = .next (scored (ownFlag src p (received src s))) :=
  congrArg Host.Outcome.next (receivePacket_of_takes h _)

theorem exec_rollReceived : exec (.rollReceived src p) s = .next (scored (ownRoll src p (received src s))) :=
  congrArg Host.Outcome.next (receivePacket_of_takes h _)

theorem exec_markReceived :
    exec (.markReceived src p) s = .next (scored (ownMarkLogic src p s.receiveCapture (received src s))) :=
  congrArg Host.Outcome.next (receivePacket_of_takes h _)

theorem exec_tempReceived : exec (.tempReceived src p) s = .next (scored (ownTempArrival src p (received src s))) :=
  congrArg Host.Outcome.next (receivePacket_of_takes h _)

theorem exec_obsReceived : exec (.obsReceived src p) s = .next (scored (ownObs src p (received src s))) :=
  congrArg Host.Outcome.next (receivePacket_of_takes h _)

theorem exec_replyReceived : exec (.replyReceived src p) s = .next (scored (ownReply src p (received src s))) :=
  congrArg Host.Outcome.next (receivePacket_of_takes h _)

end Owners

/-- A station that names no entry changes none (R24). -/
theorem ownPresence_of_not_numbered {src : Station} (h : ¬ Numbered src) (p : List Byte) (c : Option HutTime) (s : State) :
    ownFlag src p s = s ∧ ownRoll src p s = s ∧ ownMarkLogic src p c s = s := by
  have hn : namesPeer src = false := Bool.eq_false_iff.mpr fun hn => h ((namesPeer_iff src).mp hn)
  refine ⟨?_, ?_, ?_⟩
  · unfold ownFlag setPeerWires; split <;> simp [hn]
  · unfold ownRoll setPeerWires PresenceBlock.modifyPeer; split <;> simp [hn]
  · unfold ownMarkLogic; split <;> simp [hn]

/-- Settles O23. -/
theorem unfitPayloadIsDiscarded : Obligations.UnfitPayloadIsDiscarded := by
  intro s src p h
  refine ⟨fun hp => ?_, fun hp => ?_, fun hp => ?_, fun hp => ?_, fun hp => ?_, fun hp => ?_,
    fun hlen => if_neg hlen, fun hlen => ⟨parseRoll_eq_none (.inl hlen), parseMark_eq_none (.inl hlen)⟩,
    fun hlen => parseReply_eq_none (.inl hlen), fun h41 h14 => parseObs_eq_none (.inr ⟨h41, h14⟩), fun hcount => ?_,
    fun hfit => parseTemp_eq_none (hfit.elim .inl fun hl => .inr (.inr (.inr hl))), fun hfit => parseMark_eq_none (.inr hfit),
    fun hfit => parseRoll_eq_none (.inr hfit), fun hkind => parseObs_eq_none (.inl hkind),
    fun h0 hfit => parseObs_record_eq_none h0 hfit, fun h1 hfit => parseObs_fence_eq_none h1 hfit, fun hcode => ?_⟩
  · rw [exec_flagReceived h]
    rcases hp with hp | hp
    · rw [ownFlag, hp]
    · rw [(ownPresence_of_not_numbered hp p none _).1]
  · rw [exec_rollReceived h]
    rcases hp with hp | hp
    · rw [ownRoll, hp]
    · rw [(ownPresence_of_not_numbered hp p none _).2.1]
  · rw [exec_markReceived h]
    rcases hp with hp | hp
    · rw [ownMarkLogic, hp]
    · rw [(ownPresence_of_not_numbered hp p _ _).2.2]
  · rw [exec_tempReceived h, ownTempArrival, hp]
  · rw [exec_obsReceived h, ownObs, hp]
  · rw [exec_replyReceived h, ownReply, hp]
  · refine parseTemp_eq_none (hcount.elim (fun h0 => .inr (.inl ?_)) fun h4 => .inr (.inr (.inl h4)))
    rw [h0]; rfl
  · refine parseReply_eq_none (hcode.elim (fun h0 => .inr (.inl ?_)) fun h' => .inr (.inr h'))
    rw [h0]; rfl

/-! ## Wire sets -/

theorem modify_eq_self {α : Type} {f : α → α} (l : List α) (i : Nat) (h : ∀ x, l[i]? = some x → f x = x) :
    l.modify i f = l := by
  refine List.ext_getElem? fun j => ?_
  rw [List.getElem?_modify]
  split
  · next hij =>
    subst hij
    cases hx : l[i]? with
    | none => rfl
    | some x => rw [Option.map_eq_map, Option.map_some, h x hx]
  · simp

/-- R34, R35: a peer's wire set is replaced, and the wire OR is that of the new sets also where the set was held
already. -/
theorem setPeerWires_of_numbered {src : Station} (hn : Numbered src) (w : WireSet) {t : State}
    (hor : t.presence.wireOr = hutOr t.presence.own t.presence.peers) :
    setPeerWires src w t = withPeers t (t.presence.peers.modify (src.toNat - 1) fun e => { e with wires := w }) := by
  rw [setPeerWires, if_pos ((namesPeer_iff src).mpr hn), modifyPeer_of_numbered hn, withPeers]
  dsimp only
  split
  · next hsame =>
    have hpeers : (t.presence.peers.modify (src.toNat - 1) fun e => { e with wires := w }) = t.presence.peers := by
      refine modify_eq_self _ _ fun e he => ?_
      rw [PresenceBlock.peer, if_pos ((namesPeer_iff src).mpr hn), List.getD_eq_getElem?_getD, he] at hsame
      subst hsame; rfl
    rw [hpeers, ← hor]
  · rw [PresenceBlock.recomputed, orNow_eq_hutOr]

theorem wireInv_received {s : State} {src : Station} (h : WireInv s.presence) : WireInv (received src s).presence := by
  rw [← heard_endReception]
  exact (heard_keeps src (endReception s)).wire h

/-- Settles O22. -/
theorem flagAndRollReplaceTheWireSet : Obligations.FlagAndRollReplaceTheWireSet := by
  intro s src htakes hn hinv
  have hrec := wireInv_received (src := src) hinv
  refine ⟨fun b => ?_, fun role standing score state grade b e1 e0 u1 u0 kind h1 h2 h3 h4 h5 => ?_⟩
  · obtain ⟨-, -, hor, -⟩ := hrec
    rw [exec_flagReceived htakes, show ownFlag src [b] (received src s) = setPeerWires src (.ofByte b) (received src s) from rfl,
      setPeerWires_of_numbered hn _ hor]; rfl
  · have hparse : parseRoll [role, standing, score, state, grade, b, e1, e0, u1, u0, kind] =
        some ⟨if state = 0#8 then .unset else .set, .ofByte b⟩ := if_pos ⟨rfl, h1, h2, h3, h4, h5⟩
    have hinv' : WireInv ((received src s).presence.modifyPeer src fun e =>
        { e with timeState := if state = 0#8 then .unset else .set }) :=
      (keeps_modifyPeer_same (s := received src s) (n := src)
        (f := fun e => { e with timeState := if state = 0#8 then .unset else .set }) fun _ => rfl).wire hrec
    rw [modifyPeer_of_numbered hn] at hinv'
    obtain ⟨-, -, hor, -⟩ := hinv'
    rw [exec_rollReceived htakes, ownRoll, hparse]
    dsimp only
    rw [modifyPeer_of_numbered hn, setPeerWires_of_numbered hn _ hor, State.withPresence_presence, List.modify_modify_eq]
    rfl

/-! ## MARKs -/

/-- Settles O26. -/
theorem markIsPairedWithTheHeldCapture : Obligations.MarkIsPairedWithTheHeldCapture := by
  intro s src seq prev flags t grade htakes hn hseq hwf hgrade
  have hparse : parseMark ([seq, prev] ++ timeBytes t ++ [BitVec.ofNat 8 grade, flags]) =
      some ⟨seq, prev, t, grade, flags.getLsbD 0⟩ := by
    have hbyte : (BitVec.ofNat 8 grade).toNat = grade := Nat.mod_eq_of_lt (by omega)
    have hfit : ([seq, prev] ++ timeBytes t ++ [BitVec.ofNat 8 grade, flags]).length = 11 ∧ seq ≠ 255#8 ∧
        (BitVec.ofNat 8 grade).toNat ≤ 7 := ⟨rfl, hseq, by omega⟩
    have htime : bytesAt ([seq, prev] ++ timeBytes t ++ [BitVec.ofNat 8 grade, flags]) 2 7 = timeBytes t := rfl
    refine (if_pos hfit).trans ?_
    rw [htime, parseTime_timeBytes hwf, Option.map_some]
    show some (⟨seq, prev, t, (BitVec.ofNat 8 grade).toNat, flags.getLsbD 0⟩ : MarkInfo) = _
    rw [hbyte]
  have hmarked : Peer.marked ⟨seq, prev, t, grade, flags.getLsbD 0⟩ s.receiveCapture = fun e : Peer =>
      { e with
        timeState := if flags.getLsbD 0 then .unset else .set
        capture := s.receiveCapture.map fun c => ⟨seq, c⟩
        sample :=
          match e.capture with
          | some c =>
            if flags.getLsbD 0 = false ∧ prev ≠ 255#8 ∧ c.seq = prev then some ⟨t.diff c.time, grade⟩ else e.sample
          | none => e.sample } := by
    funext e
    unfold Peer.marked offsetSample
    cases e.capture with
    | none => rfl
    | some c =>
      by_cases hpair : flags.getLsbD 0 = false ∧ prev ≠ 255#8 ∧ c.seq = prev
      · simp only [if_pos hpair]
      · simp only [if_neg hpair]
  rw [exec_markReceived htakes, ownMarkLogic, hparse]
  dsimp only
  rw [if_pos ((namesPeer_iff src).mpr hn), hmarked, modifyPeer_of_numbered hn, received_eq, if_pos hn]
  rfl

end Sys2Proof.Reception

/-! Temperatures and observations that arrive for the subscription table (Section 8). -/

namespace Sys2Proof.Arrivals

open Sys2Proof.Machine
open Sys2Proof.Codec
open Sys2Proof.Reception (exec_tempReceived exec_obsReceived exec_replyReceived)

/-! ## Closes that change nothing -/

/-- Nothing is released from a queue whose head is open. -/
theorem releaseFrom_of_open {q : List Entry} (h : ∀ e, q.head? = some e → e.closed = none) (s : State) :
    releaseFrom q s = s := by
  cases q with
  | nil => rfl
  | cons e rest => simp only [releaseFrom, h e rfl]

/-- Where every open entry awaits something and the head is open, closing what is complete does nothing. -/
theorem closeComplete_of_incomplete {s : State}
    (hopen : ∀ e ∈ s.assembler.queue, e.closed = none → e.isComplete s.straps.role = false)
    (hhead : ∀ e, s.assembler.queue.head? = some e → e.closed = none) : closeComplete s = s := by
  have hsame : (s.assembler.queue.map fun e => if e.isComplete s.straps.role then closeEntry s .complete e else e) =
      s.assembler.queue := by
    conv_rhs => rw [← List.map_id s.assembler.queue]
    refine List.map_congr_left fun e he => ?_
    cases hc : e.closed with
    | none => rw [hopen e he hc]; rfl
    | some k => simp [closeEntry, hc]
  unfold closeComplete closeAndRelease
  rw [hsame, releaseFrom_of_open hhead]; rfl

theorem closeComplete_of_empty {s : State} (h : s.assembler.queue = []) : closeComplete s = s :=
  closeComplete_of_incomplete (by simp [h]) (by simp [h])

/-! ## Temperatures -/

theorem count_toNat {n : Nat} (h : n ≤ 4) : (BitVec.ofNat 8 n).toNat = n := Nat.mod_eq_of_lt (by omega)

theorem parseTemp_of_list {temps : List Int} (h1 : 1 ≤ temps.length) (h4 : temps.length ≤ 4)
    (hrange : ∀ x ∈ temps, -32768 ≤ x ∧ x ≤ 32767) {role : Byte} (hrole : role.toNat ≤ 3) :
    parseTemp (role :: BitVec.ofNat 8 temps.length :: temps.flatMap (beSigned 2)) = some temps := by
  have hcount := count_toNat h4
  refine (if_pos ⟨hrole, ?_, ?_, ?_⟩).trans (congrArg some (tempList_beSigned hrange))
  · show 1 ≤ (BitVec.ofNat 8 temps.length).toNat
    omega
  · show (BitVec.ofNat 8 temps.length).toNat ≤ 4
    omega
  · show (temps.flatMap (beSigned 2)).length + 1 + 1 = 2 + 2 * (BitVec.ofNat 8 temps.length).toNat
    rw [flatMap_beSigned_length]; omega

theorem parseReply_of_list {temps : List Int} (h1 : 1 ≤ temps.length) (h4 : temps.length ≤ 4)
    (hrange : ∀ x ∈ temps, -32768 ≤ x ∧ x ≤ 32767) (asker tag : Byte) :
    parseReply ([asker, tag, 8#8, 0#8, BitVec.ofNat 8 temps.length] ++ temps.flatMap (beSigned 2)) =
      some ⟨asker, tag, 8#8, some temps⟩ := by
  have hcount := count_toNat h4
  have hlen := flatMap_beSigned_length temps
  have htemps : (if (0#8 : Byte) = Status.done.code ∧ 5 ≤ (temps.flatMap (beSigned 2)).length + 5 ∧
      1 ≤ (BitVec.ofNat 8 temps.length).toNat ∧ (BitVec.ofNat 8 temps.length).toNat ≤ 4 ∧
      (temps.flatMap (beSigned 2)).length + 5 = 5 + 2 * (BitVec.ofNat 8 temps.length).toNat then
        some (tempList (temps.flatMap (beSigned 2))) else none) = some temps := by
    rw [if_pos ⟨rfl, by omega, by omega, by omega, by omega⟩, tempList_beSigned hrange]
  rw [← htemps]
  refine if_pos ⟨?_, rfl, (by decide : 0 ≤ 7)⟩
  show 4 ≤ (temps.flatMap (beSigned 2)).length + 5
  omega

/-- A reply with another status, or a count that does not fit, carries no list. -/
theorem parseReply_without_list {asker tag st : Byte} {rest : List Byte} (hst : st.toNat ≤ 7)
    (h : st ≠ 0#8 ∨ rest = [] ∨ byteAt rest 0 = 0#8 ∨ 4 < (byteAt rest 0).toNat ∨
      rest.length ≠ 1 + 2 * (byteAt rest 0).toNat) :
    parseReply ([asker, tag, 8#8, st] ++ rest) = some ⟨asker, tag, 8#8, none⟩ := by
  have htemps : ¬ (byteAt ([asker, tag, 8#8, st] ++ rest) 3 = Status.done.code ∧ 5 ≤ ([asker, tag, 8#8, st] ++ rest).length ∧
      1 ≤ (byteAt ([asker, tag, 8#8, st] ++ rest) 4).toNat ∧ (byteAt ([asker, tag, 8#8, st] ++ rest) 4).toNat ≤ 4 ∧
      ([asker, tag, 8#8, st] ++ rest).length = 5 + 2 * (byteAt ([asker, tag, 8#8, st] ++ rest) 4).toNat) := by
    rintro ⟨hdone, hlen, hone, hfour, hfit⟩
    change st = 0#8 at hdone
    change 5 ≤ rest.length + 4 at hlen
    change 1 ≤ (byteAt rest 0).toNat at hone
    change (byteAt rest 0).toNat ≤ 4 at hfour
    change rest.length + 4 = 5 + 2 * (byteAt rest 0).toNat at hfit
    rcases h with h | h | h | h | h
    · exact h hdone
    · rw [h] at hlen; simp at hlen
    · rw [h] at hone; simp at hone
    · omega
    · omega
  have hlong : 4 ≤ ([asker, tag, 8#8, st] ++ rest).length := by simp
  refine (if_pos ⟨hlong, rfl, hst⟩).trans ?_
  rw [if_neg htemps]
  rfl

theorem parseReply_fields {p : List Byte} {r : ReplyInfo} (h : parseReply p = some r) :
    r.asker = byteAt p 0 ∧ r.question = byteAt p 2 := by
  unfold parseReply at h
  split at h
  · obtain rfl := Option.some.inj h
    exact ⟨rfl, rfl⟩
  · cases h

/-- The reply answers the queries of its target and tag, if it answers TEMP NOW. -/
theorem answers_tempNow (src : Station) (asker : Byte) (tag : Byte) (temps : Option (List Int)) (q : PendingQuery) :
    answers src ⟨asker, tag, 8#8, temps⟩ q = decide (q.target = src ∧ q.tag.toNat = tag.toNat) := by
  simp [answers, qTempNow]

theorem own_asker (s : State) : (BitVec.ofNat 8 s.straps.station.toNat).toNat = s.straps.station.toNat :=
  Nat.mod_eq_of_lt (by have := s.straps.station.isLt; omega)

theorem tag_toNat (t : BitVec 4) : (BitVec.ofNat 8 t.toNat).toNat = t.toNat := Nat.mod_eq_of_lt (by have := t.isLt; omega)

/-- A reply to a pending query: the query found is the only one of its tag. -/
theorem ownReply_of_query {s : State} {src : Station} {q : PendingQuery} {p : List Byte} {temps : Option (List Int)}
    (hinv : QueryInv s.query) (hq : q ∈ s.query.queries) (htarget : q.target = src)
    (hp : parseReply p = some ⟨BitVec.ofNat 8 s.straps.station.toNat, BitVec.ofNat 8 q.tag.toNat, 8#8, temps⟩) :
    ownReply src p s =
      retireQueries (fun x => decide (x.target = src ∧ x.tag = q.tag))
        (s.withQuery
          { s.query with
            subs :=
              (temps.map fun l => holdTempsAt q.index l s.clock.time s.query.subs).getD s.query.subs }) := by
  have hanswers : answers src ⟨BitVec.ofNat 8 s.straps.station.toNat, BitVec.ofNat 8 q.tag.toNat, 8#8, temps⟩ =
      fun x => decide (x.target = src ∧ x.tag = q.tag) := by
    funext x
    rw [answers_tempNow, tag_toNat, decide_eq_decide, BitVec.toNat_inj]
  have hfind : s.query.queries.find? (fun x => decide (x.target = src ∧ x.tag = q.tag)) = some q := by
    obtain ⟨x, hx⟩ := Option.isSome_iff_exists.mp (List.find?_isSome
      (p := fun x : PendingQuery => decide (x.target = src ∧ x.tag = q.tag)).mpr ⟨q, hq, decide_eq_true ⟨htarget, rfl⟩⟩)
    have hfound := List.find?_some hx
    obtain ⟨-, htag⟩ := of_decide_eq_true hfound
    rw [hx, List.inj_on_of_nodup_map hinv.2.2 (List.mem_of_find?_eq_some hx) hq htag]
  rw [ownReply, hp]
  dsimp only
  rw [if_pos (own_asker s), hanswers, hfind]
  cases temps <;> rfl

theorem modify_eq_set {α : Type} {l : List α} {i : Nat} {x : α} (h : l[i]? = some x) (f : α → α) :
    l.modify i f = l.set i (f x) := by
  refine List.ext_getElem? fun j => ?_
  rw [List.getElem?_modify, List.getElem?_set]
  by_cases hij : i = j
  · subst hij
    obtain ⟨hlt, rfl⟩ := List.getElem?_eq_some_iff.mp h
    simp [hlt]
  · simp [hij]

/-- Settles O45. -/
theorem temperaturesFillTheSubscription : Obligations.TemperaturesFillTheSubscription := by
  intro s src temps htakes h1 h4 hrange count list fill
  refine ⟨fun role hrole => ?_, fun tag hnone => ?_, fun q e hinv hq htarget he hetemp => ?_,
    fun q st rest hinv hq htarget hst hunfit => ?_, fun p hp => ?_⟩
  · rw [exec_tempReceived htakes, ownTempArrival, parseTemp_of_list h1 h4 hrange hrole]
    simp only [holdTemps, decide_eq_true_eq]
    rfl
  · have hfind : s.query.queries.find? (answers src ⟨BitVec.ofNat 8 s.straps.station.toNat, tag, 8#8, some temps⟩) = none := by
      refine List.find?_eq_none.mpr fun q hq => ?_
      rw [answers_tempNow]
      simpa using hnone q hq
    rw [exec_replyReceived htakes, ownReply, parseReply_of_list h1 h4 hrange]
    show Host.Outcome.next (scored (if (BitVec.ofNat 8 s.straps.station.toNat).toNat = s.straps.station.toNat then
      (match s.query.queries.find? (answers src ⟨BitVec.ofNat 8 s.straps.station.toNat, tag, 8#8, some temps⟩) with
        | none => _ | some q => _) else _)) = _
    rw [if_pos (own_asker s), hfind]
  · have hfill : holdTempsAt q.index temps s.clock.time s.query.subs = s.query.subs.set (q.index - 1) (fill e) := by
      rw [holdTempsAt, modify_eq_set he, if_pos hetemp]
    have hreply := ownReply_of_query (s := received src s) (temps := some temps) hinv hq htarget
      (parseReply_of_list h1 h4 hrange _ _)
    rw [← hfill]
    exact (exec_replyReceived htakes _).trans (congrArg (fun t => Host.Outcome.next (scored t)) hreply)
  · have hreply := ownReply_of_query (s := received src s) (temps := none) hinv hq htarget
      (parseReply_without_list hst hunfit)
    exact (exec_replyReceived htakes _).trans (congrArg (fun t => Host.Outcome.next (scored t)) hreply)
  · rw [exec_replyReceived htakes, ownReply]
    split
    · rfl
    · next r hr =>
      obtain ⟨hasker, hquestion⟩ := parseReply_fields hr
      split
      · next hown =>
        have hfind : (received src s).query.queries.find? (answers src r) = none := by
          refine List.find?_eq_none.mpr fun q _ => ?_
          rcases hp with hp | hp
          · exact absurd (hasker ▸ hown) hp
          · simp [answers, qTempNow, hquestion, hp]
        rw [hfind]
      · rfl

/-! ## Observations -/

theorem roleOfCode_code (r : Role) : roleOfCode r.code.toNat = some r := by cases r <;> rfl

/-- The bytes of an epoch record, with its slots and deltaF written out. -/
theorem recordBytes_epoch {x : Record} {c : EpochContent} (hx : x.content = .epoch c) :
    recordBytes x =
      c.kind.code :: x.role.code :: BitVec.ofNat 8 x.station.toNat :: (beBytes 2 x.seq.toNat ++ timeBytes c.instant
        ++ beBytes 2 c.edition.toNat ++ [c.wires.toByte, BitVec.ofNat 8 c.grade] ++ beBytes 2 c.quality.toNat
        ++ slotBytes (c.slots.getD 0 none) ++ slotBytes (c.slots.getD 1 none)
        ++ slotBytes (c.slots.getD 2 none) ++ slotBytes (c.slots.getD 3 none)
        ++ deltaBytes c.deltaF ++ [c.cause.code] ++ beBytes 3 c.span) := by
  rw [recordBytes, hx]

/-- What a receiver reads in the OBS of an epoch record (Figure 12-8). -/
theorem obs_bytes {x : Record} {c : EpochContent} (hx : x.content = .epoch c) :
    (0#8 :: recordBytes x).length = 41 ∧ byteAt (0#8 :: recordBytes x) 0 = 0#8 ∧
      byteAt (0#8 :: recordBytes x) 1 = c.kind.code ∧ byteAt (0#8 :: recordBytes x) 2 = x.role.code ∧
      bytesAt (0#8 :: recordBytes x) 6 7 = timeBytes c.instant ∧
      byteAt (0#8 :: recordBytes x) 16 = BitVec.ofNat 8 c.grade ∧
      bytesAt (0#8 :: recordBytes x) 19 4 = slotBytes (c.slots.getD 0 none) ∧
      byteAt (0#8 :: recordBytes x) 37 = c.cause.code := by
  rw [recordBytes_epoch hx]
  obtain ⟨a0, b0, c0, d0, h0⟩ := slotBytes_eq (c.slots.getD 0 none)
  obtain ⟨a1, b1, c1, d1, h1⟩ := slotBytes_eq (c.slots.getD 1 none)
  obtain ⟨a2, b2, c2, d2, h2⟩ := slotBytes_eq (c.slots.getD 2 none)
  obtain ⟨a3, b3, c3, d3, h3⟩ := slotBytes_eq (c.slots.getD 3 none)
  obtain ⟨e, f, h4⟩ := deltaBytes_eq c.deltaF
  rw [h0, h1, h2, h3, h4]
  simp only [timeBytes, beBytes, List.cons_append, List.nil_append]
  exact ⟨rfl, rfl, rfl, rfl, rfl, rfl, rfl, rfl⟩

/-- An OBS that carries a record is read as a record of that record's role, or not at all. -/
theorem parseObs_record (x : Record) :
    parseObs (0#8 :: recordBytes x) = none ∨ ∃ o, parseObs (0#8 :: recordBytes x) = some (.record x.role o) := by
  cases hx : x.content with
  | note t v =>
    refine .inl (parseObs_record_eq_none rfl (.inr (.inl ?_)))
    rw [recordBytes, hx]
    exact (by decide : 2#8 ≠ 0#8)
  | epoch c =>
    obtain ⟨hlen, h0, -, h2, -, -, -, -⟩ := obs_bytes hx
    unfold parseObs
    rw [if_pos ⟨hlen, h0⟩]
    split
    · rw [h2, roleOfCode_code]
      cases parseTime (bytesAt (0#8 :: recordBytes x) 6 7) with
      | none => exact .inl rfl
      | some t => exact .inr ⟨_, rfl⟩
    · exact .inl rfl

theorem parseObs_base {x : Record} {c : EpochContent} (hx : x.content = .epoch c) (hkind : c.kind = .base)
    (hwf : c.instant.wf = true) (hgrade : c.grade ≤ 7)
    (hslot : ∀ v, c.slots.getD 0 none = some v → -2147483648 < v ∧ v < 2147483648) :
    parseObs (0#8 :: recordBytes x) = some (.record x.role ⟨c.instant, c.slots.getD 0 none⟩) := by
  obtain ⟨hlen, h0, h1, h2, htime, h16, h19, h37⟩ := obs_bytes hx
  have hcause : c.cause.code.toNat ≤ 2 := by cases c.cause <;> decide
  have hgradeByte : (BitVec.ofNat 8 c.grade).toNat ≤ 7 := by rw [BitVec.toNat_ofNat]; omega
  unfold parseObs
  rw [if_pos ⟨hlen, h0⟩, if_pos ⟨by rw [h1, hkind]; rfl, by rwa [h16], by rwa [h37]⟩, h2, htime, h19, roleOfCode_code,
    parseTime_timeBytes hwf, parseSlot_slotBytes hslot]

theorem parseObs_fence (f : FenceReply) : parseObs (payloadBytes (.obs (.fence f))) = none ∨
    parseObs (payloadBytes (.obs (.fence f))) = some .fence := by
  unfold parseObs
  rw [if_neg fun h => absurd h.2 (by exact (by decide : 1#8 ≠ 0#8))]
  split
  · split
    · exact .inr rfl
    · exact .inl rfl
  · exact .inl rfl

theorem hasObsEntry_iff (src : Station) (subs : List Subscription) :
    hasObsEntry src subs = true ↔ ∃ e ∈ subs, e.station = src ∧ e.isTemp = false := by
  simp [hasObsEntry]

/-- Settles O46. -/
theorem scalarObsFillsTheSubscription : Obligations.ScalarObsFillsTheSubscription := by
  refine ⟨fun s src x c htakes hrole hx hkind hwf hgrade hslot => ?_, fun s src x htakes hrole => ?_,
    fun s src f htakes => ?_⟩
  · have hparse := parseObs_base hx hkind hwf hgrade hslot
    rw [hrole] at hparse
    have howner (hsub : ∃ e ∈ s.query.subs, e.station = src ∧ e.isTemp = false) :
        ownObs src (0#8 :: recordBytes x) (received src s) =
          scalarArrived src ⟨c.instant, c.slots.getD 0 none⟩ ((received src s).withQuery
            { s.query with
              subs := s.query.subs.map fun e =>
                if e.station = src ∧ e.isTemp = false then
                  { e with content := .obs (some ⟨c.instant, c.slots.getD 0 none⟩) }
                else e }) := by
      rw [ownObs, hparse]
      exact if_pos ((hasObsEntry_iff src _).mpr hsub)
    refine ⟨fun hnone => ?_, fun hsub hempty => ?_, fun hsub hfield hlen => ?_⟩
    · have hnot : ¬ hasObsEntry src (received src s).query.subs = true := by
        rw [hasObsEntry_iff]
        rintro ⟨e, he, hmatch⟩
        exact hnone e he hmatch
      rw [exec_obsReceived htakes, ownObs, hparse]
      dsimp only
      rw [if_neg hnot]
    · rw [exec_obsReceived htakes, howner hsub, scalarArrived, closeComplete_of_empty]
      · congr 2
        show State.withAssembler _ { s.assembler with queue := s.assembler.queue.map _ } = _
        rw [hempty, List.map_nil, ← hempty]; rfl
      · show s.assembler.queue.map _ = []
        rw [hempty, List.map_nil]
    · refine ⟨_, (exec_obsReceived htakes _).trans (by rw [howner hsub]), ?_⟩
      exact closeComplete_releases _ _ hfield (by rwa [List.length_map])
  · rw [exec_obsReceived htakes, ownObs]
    rcases parseObs_record x with h | ⟨o, h⟩
    · rw [h]
    · rw [h]
      cases hr : x.role with
      | scalar => exact absurd hr hrole
      | vector => rfl
      | thermal => rfl
      | clock => rfl
  · rw [exec_obsReceived htakes, ownObs]
    rcases parseObs_fence f with h | h <;> rw [h]

end Sys2Proof.Arrivals

/-! ASKs: when one is taken, dropped, answered RANGE or carried out (Section 10). -/

namespace Sys2Proof.Questions

open Sys2Proof.Machine
open Sys2Proof.StationLine (received_eq heard_endReception)
open Sys2Proof.Presence (namesPeer_iff)
open Sys2Proof.Keeping (restarted completeRestart_eq)

/-! ## The received state -/

theorem received_line (src : Station) (s : State) :
    (received src s).line.standing = s.line.standing ∧ (received src s).line.score = s.line.score ∧
      (received src s).line.replyQueue = s.line.replyQueue ∧ (received src s).line.obsQueue = s.line.obsQueue ∧
      ∀ p, (received src s).line.activity.inFlight p = s.line.activity.inFlight p := by
  have hline : (received src s).line = { s.line.afterPacket with ackDriven := s.speaks } := by rw [received_eq]; rfl
  rw [hline]
  rcases afterPacket_spec s.line with ⟨-, h⟩ | ⟨hno, h⟩
  · rw [h]; exact ⟨rfl, rfl, rfl, rfl, fun _ => rfl⟩
  · rw [h]
    refine ⟨rfl, rfl, rfl, rfl, fun p => ?_⟩
    cases hact : s.line.activity with
    | sending sd => exact absurd hact (hno sd)
    | waiting => rfl
    | idle => rfl
    | receiving c => rfl

theorem received_standing (src : Station) (s : State) : (received src s).line.standing = s.line.standing :=
  (received_line src s).1

theorem received_replyQueue (src : Station) (s : State) : (received src s).line.replyQueue = s.line.replyQueue :=
  (received_line src s).2.2.1

/-! ## Acceptance -/

/-- The conditions of R149 and R150 on source, tag, standing and REPLY queue. -/
def CanAnswer (a : Ask) (s : State) : Prop :=
  Numbered a.source ∧ a.tag.toNat ≤ 15 ∧ (s.line.standing = .normal ∨ s.line.standing = .restrained) ∧
    s.line.replyQueue.length < 8

theorem askAccepted_iff (a : Ask) (code : Byte) (s : State) :
    askAccepted a code s = true ↔
      CanAnswer a s ∧ (a.target.toNat = s.straps.station.toNat ∨ (a.target = 0#8 ∧ (code = 1#8 ∨ code = 9#8))) := by
  have hcap : replyCapacity = 8 := rfl
  have hstatus : qStatus = 1#8 := rfl
  have hfence : qFence = 9#8 := rfl
  simp only [askAccepted, askAddressed, State.speaks, CanAnswer, Bool.and_eq_true, Bool.or_eq_true, decide_eq_true_eq,
    namesPeer_iff, hcap, hstatus, hfence]
  tauto

theorem askAccepted_received (a : Ask) (code : Byte) (src : Station) (s : State) :
    askAccepted a code (received src s) = askAccepted a code s := by
  rw [Bool.eq_iff_iff, askAccepted_iff, askAccepted_iff, CanAnswer, CanAnswer, received_standing, received_replyQueue]
  rfl

theorem canAnswer_of_answerable {a : Ask} {s : State} (h : Answerable a s) : CanAnswer a s := h.2

theorem accepted_of_asked {a : Ask} {s : State} (h : Asked a s) (code : Byte) : askAccepted a code s = true :=
  (askAccepted_iff a code s).mpr ⟨h.1.2, .inl h.2⟩

theorem accepted_of_askedAll {a : Ask} {s : State} (h : AskedAll a s) {code : Byte} (hcode : code = 1#8 ∨ code = 9#8) :
    askAccepted a code s = true :=
  (askAccepted_iff a code s).mpr ⟨h.1.2, h.2.imp_right fun h0 => ⟨h0, hcode⟩⟩

/-! ## Replies -/

/-- A reply finds its place where an answerable ASK was received. -/
theorem offerReply_received {a : Ask} {s t : State} (h : CanAnswer a s) (hst : t.line.standing = s.line.standing)
    (hq : t.line.replyQueue = s.line.replyQueue) (r : Reply) : offerReply r t = withReplies t [r] := by
  obtain ⟨-, -, hstanding, hroom⟩ := h
  refine if_pos ⟨decide_eq_true ?_, by rw [hq]; exact hroom⟩
  rw [hst]
  exact .inr hstanding

/-! ## What a received ASK does -/

theorem receiveAskPacket_of_takes {src : Station} {s : State} (h : TakesAsk src s) (owner : Option HutTime → State → State) :
    receiveAskPacket src owner s = scored (owner s.receiveCapture (received src s)) := by
  obtain ⟨htakes, hsrc⟩ := h
  rw [receiveAskPacket, if_pos htakes, handOver, if_neg hsrc, heard_endReception]; rfl

theorem receiveAskPacket_of_not_taken {src : Station} {s : State} (h : s.takesAsk src = false)
    (owner : Option HutTime → State → State) : receiveAskPacket src owner s = s := by
  simp [receiveAskPacket, h]

section Received

variable {a : Ask} {code : Byte} {carry : State → State} {s : State}

theorem receiveAsk_of_not_taken (h : s.takesAsk a.source = false) (ok : Bool) : receiveAsk a code ok carry s = s :=
  receiveAskPacket_of_not_taken h _

theorem receiveAsk_dropped (h : TakesAsk a.source s) (hacc : askAccepted a code s = false) (ok : Bool) :
    receiveAsk a code ok carry s = scored (received a.source s) := by
  rw [receiveAsk, receiveAskPacket_of_takes h, if_neg (by simp [askAccepted_received, hacc])]

theorem receiveAsk_carried (h : TakesAsk a.source s) (hacc : askAccepted a code s = true) {ok : Bool} (hok : ok = true) :
    receiveAsk a code ok carry s = scored (carry (received a.source s)) := by
  rw [receiveAsk, receiveAskPacket_of_takes h, if_pos (by rwa [askAccepted_received]), if_pos hok]

theorem receiveAsk_range (h : TakesAsk a.source s) (hacc : askAccepted a code s = true) {ok : Bool} (hok : ok = false) :
    receiveAsk a code ok carry s = answered a code .range .empty (received a.source s) := by
  rw [receiveAsk, receiveAskPacket_of_takes h, if_pos (by rwa [askAccepted_received]), if_neg (by simp [hok]),
    offerReply_received ((askAccepted_iff a code s).mp hacc).1 (received_standing _ _) (received_replyQueue _ _)]
  rfl

/-- An accepted question that draws one reply. -/
theorem receiveAsk_answered (h : TakesAsk a.source s) (hacc : askAccepted a code s = true) {ok : Bool} (hok : ok = true)
    {st : Status} {body : ReplyBody} {t : State} (hst : t.line = (received a.source s).line)
    (hcarry : carry (received a.source s) = offerReply ⟨a.source, a.tag, code, st, body⟩ t) :
    receiveAsk a code ok carry s = answered a code st body t := by
  rw [receiveAsk_carried h hacc hok, hcarry,
    offerReply_received ((askAccepted_iff a code s).mp hacc).1 (by rw [hst, received_standing])
      (by rw [hst, received_replyQueue])]
  rfl

end Received

/-! ## RESTART -/

theorem stopLine_eq (s : State) : ∃ l, stopLine s = s.withLine l := by
  unfold stopLine
  split <;> exact ⟨_, rfl⟩

/-- A restart asks nothing of the line it stops. -/
theorem completeRestart_stopLine (p : StrapPins) (s : State) : completeRestart p (stopLine s) = completeRestart p s := by
  obtain ⟨l, h⟩ := stopLine_eq s
  rw [h, completeRestart_eq, completeRestart_eq]; rfl

theorem restartTaken_iff (a : Ask) (s : State) :
    restartTaken a s = true ↔ TakesAsk a.source s ∧ askAccepted a 11#8 s = true := by
  simp only [restartTaken, Bool.and_eq_true, decide_eq_true_eq]; rfl

theorem takeRestart_of_not_taken {a : Ask} {s : State} (h : restartTaken a s = false) (p : StrapPins) :
    takeRestart a p s = receiveAsk a 11#8 false (fun t => t) s := by
  rw [takeRestart, h]
  split <;> trivial

/-- Settles O58. -/
theorem restartRequestRestartsTheNode : Obligations.RestartRequestRestartsTheNode := by
  intro a pins s h
  have htaken : restartTaken a s = true := (restartTaken_iff a s).mpr ⟨h.1.1, accepted_of_asked h _⟩
  have hwarm : exec (.restartWarm a pins) s = .next (takeRestart a pins s) := rfl
  have hcold : exec (.restartCold a pins) s = .next (takeRestart a pins s) := rfl
  refine ⟨fun hops => ?_, fun hops => ⟨?_, ?_⟩, ?_, ?_⟩
  · rw [hwarm, takeRestart, htaken, hops]
    exact congrArg Host.Outcome.next (completeRestart_stopLine pins s)
  · rw [hcold, takeRestart, htaken, hops]
    exact congrArg Host.Outcome.next (completeRestart_stopLine pins _)
  · rw [completeRestart_eq]; split <;> rfl
  · rw [completeRestart_eq]; split <;> rfl
  · rw [completeRestart_eq]; split <;> rfl

/-! ## Dropped ASKs -/

theorem takesAsk_cases (src : Station) (s : State) :
    s.takesAsk src = true ↔
      s.running = true ∧ (s.line.activity = .idle ∨ (∃ c, s.line.activity = .receiving c) ∨
        (src ≠ s.straps.station ∧ ((∃ sd, s.line.activity = .sending sd) ∨
          (s.line.activity = .waiting ∧ s.line.sendEnded = true)))) := by
  rw [takesAsk_iff, takesPackets_iff]
  tauto

theorem unknown_not_question {code : Byte} (h : code = 0#8 ∨ 11 < code.toNat) : isQuestion code = false := by
  rw [Bool.eq_false_iff]
  simp only [isQuestion, ne_eq, Bool.and_eq_true, decide_eq_true_eq]
  rcases h with rfl | h
  · exact fun h => absurd h.1 (by decide)
  · omega

theorem exec_unknownQuestion (a : Ask) {code : Byte} (h : isQuestion code = false) (s : State) :
    exec (.unknownQuestion a code) s =
      .next (receiveAsk a code true (fun t => offerReply (replyTo a code .unknown .empty) t) s) := by
  show Host.Outcome.next (if isQuestion code then s else _) = _
  rw [if_neg (by simp [h])]

theorem exec_askDropped_silent {src : Station} {p : List Byte} {s : State} (h : TakesAsk src s)
    (hacc : wouldAccept src p s = false) : exec (.askDropped src p) s = .next (scored (received src s)) := by
  show Host.Outcome.next (if src ≠ s.straps.station ∧ wouldAccept src p s = true then s
    else receiveAskPacket src (fun _ t => t) s) = _
  rw [if_neg (by simp [hacc]), receiveAskPacket_of_takes h]

theorem exec_askDropped_accepted {src : Station} {p : List Byte} {s : State} (hsrc : src ≠ s.straps.station)
    (hacc : wouldAccept src p s = true) : exec (.askDropped src p) s = .next s := by
  show Host.Outcome.next (if src ≠ s.straps.station ∧ wouldAccept src p s = true then s
    else receiveAskPacket src (fun _ t => t) s) = _
  rw [if_pos ⟨hsrc, hacc⟩]

/-- Where no ASK is taken, no ASK command does anything. -/
theorem no_ask_taken (a : Ask) (pins : StrapPins) (s : State) (code : Byte) (p : List Byte) (h : s.takesAsk a.source = false) :
    ∀ c ∈ [Instr.status a, .readWindow a, .consume a, .tableRead a, .tableWrite a, .tableCommit a, .tableDiscard a,
        .tempNow a, .fence a, .clearConditions a, .restartWarm a pins, .restartCold a pins, .unknownQuestion a code,
        .askDropped a.source p], exec c s = .next s := by
  have hask (code : Byte) (ok : Bool) (carry : State → State) :
      (Host.Outcome.next (receiveAsk a code ok carry s) : Host.Outcome State Fault Refusal) = .next s :=
    congrArg _ (receiveAsk_of_not_taken h ok)
  have hrestart : (Host.Outcome.next (takeRestart a pins s) : Host.Outcome State Fault Refusal) = .next s := by
    rw [takeRestart_of_not_taken (by simp [restartTaken, h])]
    exact hask _ _ _
  have hunknown : exec (.unknownQuestion a code) s = .next s := by
    show Host.Outcome.next (if isQuestion code then s else _) = _
    rw [receiveAsk_of_not_taken h, ite_self]
  have hdropped : exec (.askDropped a.source p) s = .next s := by
    show Host.Outcome.next (if a.source ≠ s.straps.station ∧ wouldAccept a.source p s = true then s else _) = _
    rw [receiveAskPacket_of_not_taken h, ite_self]
  simp only [List.forall_mem_cons, List.not_mem_nil, false_imp_iff, implies_true, and_true]
  exact ⟨hask .., hask .., hask .., hask .., hask .., hask .., hask .., hask .., hask .., hask .., hrestart, hrestart,
    hunknown, hdropped⟩

/-- Settles O56. -/
theorem askIsDroppedOrJudged : Obligations.AskIsDroppedOrJudged := by
  refine ⟨takesAsk_cases, no_ask_taken, fun a pins s h => ?_⟩
  intro silent dropped other
  have hdropped (hd : dropped) (code : Byte) : askAccepted a code s = false := by
    rw [Bool.eq_false_iff, ne_eq, askAccepted_iff]
    rintro ⟨⟨hnum, htag, hst, hroom⟩, -⟩
    rcases hd with hd | hd | hd | hd
    · exact hd hnum
    · omega
    · exact hd hst
    · omega
  have hown (hd : dropped ∨ other) {code : Byte} (h1 : code ≠ 1#8) (h9 : code ≠ 9#8) : askAccepted a code s = false := by
    rcases hd with hd | hd
    · exact hdropped hd code
    · rw [Bool.eq_false_iff, ne_eq, askAccepted_iff]
      rintro ⟨-, heq | ⟨-, hcode⟩⟩
      · exact hd heq
      · exact hcode.elim h1 h9
  have hall (hd : dropped ∨ (other ∧ a.target ≠ 0#8)) (code : Byte) : askAccepted a code s = false := by
    rcases hd with hd | ⟨hd, hzero⟩
    · exact hdropped hd code
    · rw [Bool.eq_false_iff, ne_eq, askAccepted_iff]
      rintro ⟨-, heq | ⟨heq, -⟩⟩
      · exact hd heq
      · exact hzero heq
  have hsilent {code : Byte} (hacc : askAccepted a code s = false) (ok : Bool) (carry : State → State) :
      (Host.Outcome.next (receiveAsk a code ok carry s) : Host.Outcome State Fault Refusal) = silent :=
    congrArg _ (receiveAsk_dropped h hacc ok)
  have hrange {code : Byte} (hacc : askAccepted a code s = true) {ok : Bool} (hok : ok = false) (carry : State → State) :
      (Host.Outcome.next (receiveAsk a code ok carry s) : Host.Outcome State Fault Refusal) =
        .next (answered a code .range .empty (received a.source s)) :=
    congrArg _ (receiveAsk_range h hacc hok)
  refine ⟨fun hd => ?_, fun hd => ?_, fun hasked code => ?_, fun hasked code hcode => ?_, fun p hp => ?_, fun hasked hops => ?_,
    fun hasked => ?_⟩
  · have hsil {code : Byte} (h1 : code ≠ 1#8) (h9 : code ≠ 9#8) := hsilent (hown hd h1 h9)
    have hrestart : (Host.Outcome.next (takeRestart a pins s) : Host.Outcome State Fault Refusal) = silent := by
      have hnot : askAccepted a 11#8 s = false := hown hd (by decide) (by decide)
      rw [takeRestart_of_not_taken (by rw [Bool.eq_false_iff, ne_eq, restartTaken_iff, hnot]; exact fun hb => by cases hb.2)]
      exact hsilent hnot _ _
    refine ⟨hsil (code := 2#8) (by decide) (by decide) .., hsil (code := 3#8) (by decide) (by decide) ..,
      hsil (code := 4#8) (by decide) (by decide) .., hsil (code := 5#8) (by decide) (by decide) ..,
      hsil (code := 6#8) (by decide) (by decide) .., hsil (code := 7#8) (by decide) (by decide) ..,
      hsil (code := 8#8) (by decide) (by decide) .., hsil (code := 10#8) (by decide) (by decide) .., hrestart, hrestart,
      fun code hcode => ?_, fun code h1 h9 => ?_⟩
    · rw [exec_unknownQuestion a (unknown_not_question hcode)]
      refine hsil ?_ ?_ .. <;> rintro rfl <;> rcases hcode with h0 | h0 <;> exact absurd h0 (by decide)
    · exact exec_askDropped_silent h (hown hd h1 h9)
  · exact ⟨hsilent (hall hd _) .., hsilent (hall hd _) .., fun code => exec_askDropped_silent h (hall hd code)⟩
  · exact exec_askDropped_accepted h.2 (accepted_of_asked hasked code)
  · exact exec_askDropped_accepted h.2 (accepted_of_askedAll hasked hcode)
  · refine exec_askDropped_silent h ?_
    rcases p with _ | ⟨x, _ | ⟨y, _ | ⟨z, rest⟩⟩⟩
    · rfl
    · rfl
    · rfl
    · simp only [List.length_cons] at hp; omega
  · have hempty : a.operands.isEmpty = false := by simpa using hops
    exact ⟨hrange (accepted_of_askedAll hasked (.inl rfl)) hempty _, hrange (accepted_of_askedAll hasked (.inr rfl)) hempty _⟩
  · have hacc (code : Byte) := accepted_of_asked hasked code
    refine ⟨fun hlen => hrange (hacc _) (decide_eq_false hlen) _,
      fun hlen => ⟨hrange (hacc _) (decide_eq_false hlen) _, hrange (hacc _) (decide_eq_false hlen) _⟩,
      fun hlen => hrange (hacc _) (decide_eq_false hlen) _, fun hlen => hrange (hacc _) hlen _, fun hops => ?_,
      fun hlen => hrange (hacc _) (decide_eq_false hlen) _, fun h0 h1 => ?_⟩
    · have hempty : a.operands.isEmpty = false := by simpa using hops
      exact ⟨hrange (hacc _) hempty _, hrange (hacc _) hempty _⟩
    · show Host.Outcome.next (takeRestart a pins s) = _
      have hkind : kindNamed a.operands = none := by rw [kindNamed, if_neg h0, if_neg h1]
      rw [takeRestart, hkind]
      exact hrange (hacc 11#8) rfl _

end Sys2Proof.Questions

/-! The accepted questions about status, conditions, ring and fence (Sections 9 and 10). -/

namespace Sys2Proof.Answers

open Sys2Proof.Machine
open Sys2Proof.Questions
open Sys2Proof.Codec

/-! ## STATUS, TEMP NOW, unknown codes -/

theorem received_own (src : Station) (s : State) : (received src s).presence.own = s.presence.own := by
  rw [StationLine.received_eq, State.withPresence_presence]
  split <;> rfl

/-- Settles O54. -/
theorem statusTempNowAndUnknown : Obligations.StatusTempNowAndUnknown := by
  intro a s
  refine ⟨fun h hops => ?_, fun h hops => ?_, fun code h hcode => ?_⟩
  · have hreceived : snapshot (received a.source s) =
        { snapshot s with standing := s.line.standing, score := s.line.score } := by
      obtain ⟨hst, hscore, -⟩ := received_line a.source s
      rw [snapshot, hst, hscore, received_own]; rfl
    have hanswer := receiveAsk_answered
      (carry := fun t => offerReply (replyTo a qStatus .done (.status (snapshot t))) t) (ok := a.operands.isEmpty)
      h.1.1 (accepted_of_askedAll h (code := qStatus) (.inl rfl)) (by rw [hops]; rfl) (t := received a.source s) rfl rfl
    rw [hreceived] at hanswer
    exact congrArg Host.Outcome.next hanswer
  · exact congrArg Host.Outcome.next (receiveAsk_answered h.1.1 (accepted_of_asked h _) (by rw [hops]; rfl)
      (t := received a.source s) rfl rfl)
  · rw [exec_unknownQuestion a (unknown_not_question hcode)]
    exact congrArg Host.Outcome.next (receiveAsk_answered h.1.1 (accepted_of_asked h _) rfl
      (t := received a.source s) rfl rfl)

/-! ## FENCE and CLEAR CONDITIONS -/

/-- The oldest record goes from behind the fence replies before it. -/
theorem dropOldestRecord_append {pre : List ObsPacket} (h : ∀ x ∈ pre, ∃ f, x = .fence f) (r : Record) (post : List ObsPacket) :
    dropOldestRecord (pre ++ .record r :: post) = pre ++ post := by
  induction pre with
  | nil => rfl
  | cons x rest ih =>
    obtain ⟨f, rfl⟩ := h x List.mem_cons_self
    rw [List.cons_append, dropOldestRecord, ih fun y hy => h y (List.mem_cons_of_mem _ hy)]; rfl

theorem roomMade_obsRoom (busy : Bool) (l : List ObsPacket) : RoomMade busy l (obsRoom busy l) := by
  refine ⟨fun hroom => if_pos hroom, fun hfull pre r post hl hhead hfence => ?_⟩
  have hcap : ¬ l.length < obsCapacity := Nat.not_lt.mpr hfull
  unfold obsRoom
  rw [if_neg hcap, hl]
  cases busy with
  | false => exact dropOldestRecord_append hfence r post
  | true =>
    obtain ⟨x, rest, rfl⟩ := List.exists_cons_of_ne_nil (hhead rfl)
    exact congrArg (x :: ·) (dropOldestRecord_append hfence r post)

theorem any_isFence_iff (l : List ObsPacket) : l.any ObsPacket.isFence = true ↔ ∃ f, .fence f ∈ l := by
  rw [List.any_eq_true]
  refine ⟨fun ⟨x, hx, hf⟩ => ?_, fun ⟨f, hf⟩ => ⟨_, hf, rfl⟩⟩
  cases x with
  | fence f => exact ⟨f, hx⟩
  | record r => cases hf

/-- Settles O55. -/
theorem fenceAndClearConditions : Obligations.FenceAndClearConditions := by
  refine ⟨roomMade_obsRoom, fun a s => ⟨fun h hops => ?_, fun b h hops => ?_⟩⟩
  · have hacc := accepted_of_askedAll h (.inr rfl)
    have hempty : a.operands.isEmpty = true := by rw [hops]; rfl
    obtain ⟨hst, -, -, hobs, hinf⟩ := received_line a.source s
    refine ⟨fun hnone => ?_, fun hsome => ?_⟩
    · have hany : ¬ (received a.source s).line.obsQueue.any ObsPacket.isFence = true := by
        rw [hobs, any_isFence_iff]
        rintro ⟨f, hf⟩
        exact hnone f hf
      have haccepts : (received a.source s).accepts = true := by
        refine decide_eq_true ?_
        rw [hst]
        exact .inr h.1.2.2.2.1
      refine congrArg Host.Outcome.next ((receiveAsk_carried h.1.1 hacc hempty).trans ?_)
      rw [carryFence, if_neg hany, offerObs, if_pos haccepts, hobs, hinf]; rfl
    · have hany : (received a.source s).line.obsQueue.any ObsPacket.isFence = true := by
        rw [hobs, any_isFence_iff]; exact hsome
      exact congrArg Host.Outcome.next (receiveAsk_answered h.1.1 hacc hempty (t := received a.source s) rfl
        (by rw [carryFence, if_pos hany]; rfl))
  · have hone : decide (a.operands.length = 1) = true := by rw [hops]; rfl
    refine ⟨fun hlt => ?_, fun hge => ?_⟩
    · refine congrArg Host.Outcome.next (receiveAsk_answered h.1.1 (accepted_of_asked h _) hone
        (t := (received a.source s).withConditions (s.conditions.without b)) rfl ?_)
      rw [carryClear, hops]
      exact if_pos (decide_eq_true hlt)
    · refine congrArg Host.Outcome.next (receiveAsk_answered h.1.1 (accepted_of_asked h _) hone
        (t := received a.source s) rfl ?_)
      rw [carryClear, hops]
      exact if_neg (by simpa [namesOnlyConditions, byteAt] using hge)

/-! ## CONSUME -/

theorem sequenceAt_beBytes (q : BitVec 16) (rest : List Byte) : sequenceAt (beBytes 2 q.toNat ++ rest) 0 = q := by
  have hbytes : bytesAt (beBytes 2 q.toNat ++ rest) 0 2 = beBytes 2 q.toNat := rfl
  rw [sequenceAt, hbytes, beNat_beBytes (by have := q.isLt; omega), BitVec.ofNat_toNat, BitVec.setWidth_eq]

theorem exec_consume {a : Ask} {s : State} {q : BitVec 16} (h : Asked a s) (hops : a.operands = beBytes 2 q.toNat) :
    exec (.consume a) s =
      .next (answered a 3#8 (consumeOutcome s.ring q).1
        (.ring (consumeOutcome s.ring q).2.producer (consumeOutcome s.ring q).2.consumer)
        ((received a.source s).withRing (consumeOutcome s.ring q).2)) := by
  have hseq : sequenceAt a.operands 0 = q := by rw [hops, ← List.append_nil (beBytes 2 q.toNat)]; exact sequenceAt_beBytes q []
  refine congrArg Host.Outcome.next (receiveAsk_answered h.1.1 (accepted_of_asked h _) (by rw [hops]; rfl)
    (t := (received a.source s).withRing (consumeOutcome s.ring q).2) rfl ?_)
  rw [carryConsume, hseq]; rfl

/-- Settles O52. -/
theorem consumeJudgesTheDistance : Obligations.ConsumeJudgesTheDistance := by
  intro a s q h hops
  have hplaces : ringPlaces = 1024 := rfl
  intro k unconsumed refuse
  have hk : s.ring.behind q = k := rfl
  have hu : s.ring.unconsumed = unconsumed := rfl
  have hrefuse {st : Status} (hout : consumeOutcome s.ring q = (st, s.ring)) : refuse st := by
    have hexec := exec_consume h hops
    rw [hout] at hexec
    exact hexec
  refine ⟨fun h1 hle => ?_, fun h1 hlt hle => hrefuse ?_, fun h0 => hrefuse ?_, fun hfar hlt hmem => hrefuse ?_,
    fun hfar hlt hmem => hrefuse ?_, fun content => ⟨fun hfull => ?_, fun hfull => ?_, fun hfull hq => ?_⟩⟩
  · rw [exec_consume h hops, consumeOutcome, if_pos ⟨h1, hle⟩]
  · rw [consumeOutcome, hk, hu, if_neg (by omega), if_pos ⟨h1, hle⟩]
  · rw [consumeOutcome, hk, hu, if_neg (by omega), if_neg (by omega), if_neg (by omega)]
  · rw [consumeOutcome, hk, hu, if_neg (by omega), if_neg (by omega), if_pos ⟨hfar, hmem⟩]
  · rw [consumeOutcome, hk, hu, if_neg (by omega), if_neg (by omega), if_neg fun hb => hmem hb.2]
  · exact if_pos ((RingWrite.full_iff s.ring).mpr hfull)
  · exact if_neg (mt (RingWrite.full_iff s.ring).mp hfull)
  · intro w
    have hasked : Asked a w := h
    have hfullRing := (RingWrite.full_iff s.ring).mpr hfull
    have hwring : w.ring = { s.ring with
        places := insertPlace (placeOf s.ring.producer) (s.recordOf content) s.ring.places
        producer := s.ring.producer + 1#16
        consumer := s.ring.consumer + 1#16
        written := if s.ring.written < ringPlaces then s.ring.written + 1 else s.ring.written
        lappedNow := s.ring.lappedNow ++ [s.ring.consumer] } := by
      rw [ringWrite_ring, if_pos hfullRing, if_pos hfullRing]
    have hdist : k = 1024 := by rw [← hfull, ← hk, ← hu, hq]; rfl
    have hbehind : w.ring.behind q = 1025 := by
      rw [hwring]
      show (s.ring.producer + 1#16 - q).toNat = 1025
      have hk' : (s.ring.producer - q).toNat = 1024 := hdist
      bv_omega
    have hunconsumed : w.ring.unconsumed = 1024 := by
      rw [hwring]
      show (s.ring.producer + 1#16 - (s.ring.consumer + 1#16)).toNat = 1024
      have hk' : (s.ring.producer - s.ring.consumer).toNat = 1024 := hfull
      bv_omega
    have hmem : q ∈ w.ring.lappedNow := by rw [hwring, hq]; simp
    have hout : consumeOutcome w.ring q = (.tooOld, w.ring) := by
      rw [consumeOutcome, hbehind, hunconsumed, if_neg (by omega), if_neg (by omega), if_pos ⟨by omega, hmem⟩]
    have hexec := exec_consume hasked hops
    rw [hout] at hexec
    rw [hexec]
    dsimp only
    rw [show w.ring.consumer = q + 1#16 by rw [hwring, hq], show w.ring.producer = s.ring.producer + 1#16 by rw [hwring]]
    rfl

/-! ## READ WINDOW -/

/-- Replies that find room are placed one after another. -/
theorem offerReplies_eq {t : State} (haccepts : t.accepts = true) (l : List Reply) : ∀ u : State,
    u.line.standing = t.line.standing → u.line.replyQueue.length + l.length ≤ 8 → offerReplies l u = withReplies u l := by
  induction l with
  | nil =>
    intro u _ _
    show u = u.withLine { u.line with replyQueue := u.line.replyQueue ++ [] }
    rw [List.append_nil]; rfl
  | cons r rest ih =>
    intro u hst hroom
    have hacc : u.accepts = true := by
      unfold State.accepts at haccepts ⊢; rwa [hst]
    rw [List.length_cons] at hroom
    have hone : offerReply r u = withReplies u [r] := if_pos ⟨hacc, show _ < 8 by omega⟩
    rw [offerReplies, hone, ih (withReplies u [r]) hst]
    · show u.withLine { u.line with replyQueue := u.line.replyQueue ++ [r] ++ rest } = _
      rw [List.append_assoc]; rfl
    · show (u.line.replyQueue ++ [r]).length + rest.length ≤ 8
      rw [List.length_append, List.length_singleton]; omega

/-- Sequence numbers on from one behind P draw nearer to it. -/
theorem behind_add {r : Machine.Ring} {f : BitVec 16} {i : Nat} (h : i ≤ r.behind f) :
    r.behind (f + BitVec.ofNat 16 i) = r.behind f - i := by
  unfold Ring.behind at h ⊢
  bv_omega

theorem windowReplies_spec (a : Ask) {r : Machine.Ring} (hinv : RingInv r) (m : Nat) : ∀ f : BitVec 16, m ≤ r.behind f →
    r.behind f ≤ r.written →
    (windowReplies a r m f).length = m ∧
      ∀ i, i < m → ∃ x, r.recordAt (f + BitVec.ofNat 16 i) = some x ∧ x.seq = f + BitVec.ofNat 16 i ∧
        (windowReplies a r m f)[i]? =
          some ⟨a.source, a.tag, 2#8, .done, .window (f + BitVec.ofNat 16 i) (decide (i + 1 = m)) x⟩ := by
  obtain ⟨-, hmax, -, hretained⟩ := hinv
  induction m with
  | zero => exact fun f _ _ => ⟨rfl, nofun⟩
  | succ m ih =>
    intro f hle hwritten
    obtain ⟨x, hx, hseq⟩ := hretained f (by omega) hwritten
    have hnext : r.behind (f + 1#16) = r.behind f - 1 := behind_add (i := 1) (by omega)
    obtain ⟨hlen, hreplies⟩ := ih (f + 1#16) (by omega) (by omega)
    have hnat (i : Nat) : f + 1#16 + BitVec.ofNat 16 i = f + BitVec.ofNat 16 (i + 1) := by
      rw [BitVec.add_assoc, ← BitVec.ofNat_add, Nat.add_comm]
    have hcons : windowReplies a r (m + 1) f =
        replyTo a qReadWindow .done (.window f (decide (m = 0)) x) :: windowReplies a r m (f + 1#16) := by
      rw [windowReplies, hx]
    rw [hcons]
    refine ⟨by rw [List.length_cons, hlen], fun i hi => ?_⟩
    cases i with
    | zero =>
      refine ⟨x, by simpa using hx, by simpa using hseq, ?_⟩
      simp [replyTo, qReadWindow]
    | succ i =>
      obtain ⟨y, hy, hyseq, hyreply⟩ := hreplies i (by omega)
      rw [hnat] at hy hyseq hyreply
      refine ⟨y, hy, hyseq, hyreply.trans ?_⟩
      simp

theorem exec_readWindow {a : Ask} {s : State} {f : BitVec 16} {n : Byte} (h : Asked a s)
    (hops : a.operands = beBytes 2 f.toNat ++ [n]) :
    exec (.readWindow a) s = .next (scored
      (if windowStatus s.ring f n.toNat (8 - s.line.replyQueue.length) = .done then
        offerReplies (windowReplies a s.ring (windowCount s.ring f n.toNat) f) (received a.source s)
      else withReplies (received a.source s)
        [⟨a.source, a.tag, 2#8, windowStatus s.ring f n.toNat (8 - s.line.replyQueue.length),
          .ring s.ring.producer s.ring.consumer⟩])) := by
  have hseq : sequenceAt a.operands 0 = f := by rw [hops]; exact sequenceAt_beBytes f [n]
  have hcount : byteAt a.operands 2 = n := by rw [hops]; rfl
  refine congrArg Host.Outcome.next ((receiveAsk_carried h.1.1 (accepted_of_asked h _) (by rw [hops]; rfl)).trans ?_)
  rw [carryWindow, hseq, hcount, received_replyQueue]
  rw [offerReply_received (canAnswer_of_answerable h.1) (received_standing _ _) (received_replyQueue _ _)]
  rfl

/-- Settles O53. -/
theorem readWindowSendsTheRecords : Obligations.ReadWindowSendsTheRecords := by
  intro a s f n h hinv hops k m free refuse
  have hlimit : windowLimit = 8 := rfl
  have hplaces : ringPlaces = 1024 := rfl
  have hk : s.ring.behind f = k := rfl
  have hm : windowCount s.ring f n.toNat = m := rfl
  obtain ⟨-, hmax, -, -⟩ := id hinv
  have hexec := exec_readWindow h hops
  have hrefuse {st : Status} (hst : windowStatus s.ring f n.toNat free = st) (hne : st ≠ .done) : refuse st := by
    rw [show 8 - s.line.replyQueue.length = free from rfl, hst, if_neg hne] at hexec
    exact hexec
  refine ⟨fun hn => hrefuse ?_ (by decide), fun h1 h8 hlt hle => hrefuse ?_ (by decide),
    fun h1 h8 hk' => hrefuse ?_ (by decide), fun h1 h8 hk1 hkw hfree => hrefuse ?_ (by decide), fun h1 h8 hk1 hkw hfree => ?_⟩
  · exact if_pos (by omega)
  · rw [windowStatus, hk, if_neg (by omega), if_pos (by omega)]
  · rw [windowStatus, hk, if_neg (by omega), if_neg (by omega), if_pos (by omega)]
  · rw [windowStatus, hk, hm, if_neg (by omega), if_neg (by omega), if_neg (by omega), if_pos (by omega)]
  · have hst : windowStatus s.ring f n.toNat free = .done := by
      rw [windowStatus, hk, hm, if_neg (by omega), if_neg (by omega), if_neg (by omega), if_neg (by omega)]
    rw [show 8 - s.line.replyQueue.length = free from rfl, hst, if_pos rfl, hm] at hexec
    obtain ⟨hlen, hreplies⟩ := windowReplies_spec a hinv m f (min_le_right _ _) hkw
    have haccepts : (received a.source s).accepts = true := by
      refine decide_eq_true ?_
      rw [received_standing]
      exact .inr h.1.2.2.2.1
    refine ⟨windowReplies a s.ring m f, ?_, hlen, hreplies⟩
    rw [hexec, offerReplies_eq haccepts _ _ rfl]
    rw [hlen, received_replyQueue]
    have := h.1.2.2.2.2
    omega

end Sys2Proof.Answers

/-! The TABLE questions (Section 6). -/

namespace Sys2Proof.Tables

open Sys2Proof.Machine
open Sys2Proof.Questions
open Sys2Proof.Codec
open Sys2Proof.Keeping (storeRefuses_iff setShape_replacePart firstDisorder_spec firstFault_spec)

/-! ## Roles and the store -/

theorem storeRefuses_of_fields {r : Role} (h : r = .vector ∨ r = .scalar) : storeRefuses r = false := by
  rcases h with rfl | rfl <;> rfl

theorem storeRefuses_of_not_fields {r : Role} (h : ¬ (r = .vector ∨ r = .scalar)) : storeRefuses r = true := by
  cases r with
  | vector => exact absurd (.inl rfl) h
  | scalar => exact absurd (.inr rfl) h
  | thermal => rfl
  | clock => rfl

theorem pendingState_scheduled_iff (c : CorrectionStore) :
    c.pendingState = .scheduled ↔ ∃ p, c.pendingSet = some p ∧ p.scheduled = true := by
  unfold CorrectionStore.pendingState
  split
  · next h => simp [h]
  · next p h =>
    cases hs : p.scheduled <;> simp [h, hs]

/-! ## Parts -/

/-- The content is of the part's kind. -/
def SameKind : PartAddress → PartContent → Prop
  | .header, .header _ => True
  | .base _, .base _ => True
  | .point _ _, .point _ => True
  | _, _ => False

theorem channel_of_inRange {r : Role} {set : CorrectionSet} (h : SetShape r set) {n : Nat} (h1 : 1 ≤ n) (hn : n ≤ fieldChannels r) :
    ∃ ch, set.channels[n - 1]? = some ch ∧ ch.points.length = 8 := by
  obtain ⟨hlen, hpoints⟩ := h
  have hlt : n - 1 < set.channels.length := by omega
  exact ⟨_, List.getElem?_eq_getElem hlt, hpoints _ (List.getElem_mem hlt)⟩

/-- Every part in range has a content. -/
theorem partOf_isSome {r : Role} {set : CorrectionSet} (h : SetShape r set) {addr : PartAddress} (hr : addr.inRange r = true) :
    ∃ content, partOf set addr = some content := by
  cases addr with
  | header => exact ⟨_, rfl⟩
  | base c =>
    obtain ⟨h1, hc⟩ := of_decide_eq_true hr
    obtain ⟨ch, hch, -⟩ := channel_of_inRange h h1 hc
    exact ⟨_, by rw [partOf, hch, Option.map_some]⟩
  | point c k =>
    obtain ⟨h1, hc, hk1, hk8⟩ := of_decide_eq_true hr
    obtain ⟨ch, hch, hlen⟩ := channel_of_inRange h h1 hc
    exact ⟨_, by rw [partOf, hch, Option.bind_some, List.getElem?_eq_getElem (show k - 1 < ch.points.length by omega), Option.map_some]⟩

theorem partOf_replacePart_same {r : Role} {set : CorrectionSet} (h : SetShape r set) {addr : PartAddress}
    {content : PartContent} (hr : addr.inRange r = true) (hkind : SameKind addr content) :
    partOf (replacePart set addr content) addr = some content := by
  cases addr with
  | header => cases content with
    | header x => rfl
    | base x => cases hkind
    | point x => cases hkind
  | base c => cases content with
    | base x =>
      obtain ⟨h1, hc⟩ := of_decide_eq_true hr
      obtain ⟨ch, hch, -⟩ := channel_of_inRange h h1 hc
      simp [partOf, replacePart, List.getElem?_modify_eq, hch]
    | header x => cases hkind
    | point x => cases hkind
  | point c k => cases content with
    | point x =>
      obtain ⟨h1, hc, hk1, hk8⟩ := of_decide_eq_true hr
      obtain ⟨ch, hch, hlen⟩ := channel_of_inRange h h1 hc
      simp [partOf, replacePart, List.getElem?_modify_eq, hch, show k - 1 < ch.points.length by omega]
    | header x => cases hkind
    | base x => cases hkind

/-- What a change of one channel leaves of another, and of the items it does not touch. -/
theorem bind_modify {β : Type} {f : Channel → Channel} {g : Channel → Option β} {l : List Channel} {i j : Nat}
    (h : i = j → ∀ ch, g (f ch) = g ch) : ((l.modify i f)[j]?).bind g = (l[j]?).bind g := by
  rw [List.getElem?_modify]
  split
  · next hij =>
    cases l[j]? with
    | none => rfl
    | some ch => exact h hij ch
  · cases l[j]? <;> rfl

theorem partOf_base (set : CorrectionSet) (c : Nat) :
    partOf set (.base c) = (set.channels[c - 1]?).bind fun ch => some (.base ch.base) := by
  rw [partOf, Option.map_eq_bind]; rfl

/-- A part leaves every other part as it was. -/
theorem partOf_replacePart_ne {r : Role} (set : CorrectionSet) {addr other : PartAddress} (content : PartContent)
    (hr : addr.inRange r = true) (ho : other.inRange r = true) (hne : other ≠ addr) :
    partOf (replacePart set addr content) other = partOf set other := by
  cases addr with
  | header => cases content with
    | base x => rfl
    | point x => rfl
    | header x => cases other with
      | header => exact absurd rfl hne
      | base c => rfl
      | point c k => rfl
  | base c => cases content with
    | header x => rfl
    | point x => rfl
    | base x =>
      obtain ⟨h1, -⟩ := of_decide_eq_true hr
      cases other with
      | header => rfl
      | base c' =>
        obtain ⟨h1', -⟩ := of_decide_eq_true ho
        rw [partOf_base, partOf_base]
        exact bind_modify fun hij => absurd (congrArg PartAddress.base (show c' = c by omega)) hne
      | point c' k' => exact bind_modify fun _ _ => rfl
  | point c k => cases content with
    | header x => rfl
    | base x => rfl
    | point x =>
      obtain ⟨h1, -, hk1, -⟩ := of_decide_eq_true hr
      cases other with
      | header => rfl
      | base c' =>
        rw [partOf_base, partOf_base]
        exact bind_modify fun _ _ => rfl
      | point c' k' =>
        obtain ⟨h1', -, hk1', -⟩ := of_decide_eq_true ho
        refine bind_modify fun hij ch => ?_
        have hslot : k - 1 ≠ k' - 1 := fun hk => hne (by rw [show c' = c by omega, show k' = k by omega])
        dsimp only
        rw [List.getElem?_set_ne hslot]

/-! ## Addresses and contents in bytes -/

theorem parseAddress_addressBytes {r : Role} {addr : PartAddress} (h : addr.inRange r = true) (rest : List Byte) :
    parseAddress (byteAt (addressBytes addr ++ rest) 0) (byteAt (addressBytes addr ++ rest) 1)
      (byteAt (addressBytes addr ++ rest) 2) = some addr := by
  have hfield : fieldChannels r ≤ 3 := by cases r <;> decide
  cases addr with
  | header => rfl
  | base c =>
    obtain ⟨h1, hc⟩ := of_decide_eq_true h
    show some (PartAddress.base (BitVec.ofNat 8 c).toNat) = _
    rw [BitVec.toNat_ofNat, Nat.mod_eq_of_lt (by omega)]
  | point c k =>
    obtain ⟨h1, hc, hk1, hk8⟩ := of_decide_eq_true h
    show some (PartAddress.point (BitVec.ofNat 8 c).toNat (BitVec.ofNat 8 k).toNat) = _
    rw [BitVec.toNat_ofNat, BitVec.toNat_ofNat, Nat.mod_eq_of_lt (by omega), Nat.mod_eq_of_lt (by omega)]

/-! ## TABLE READ -/

theorem exec_tableRead {a : Ask} {s : State} (h : Asked a s) (hlen : a.operands.length = 4) :
    exec (.tableRead a) s =
      .next (answered a 4#8 (tableReadAnswer s.straps.role s.store a.operands).1
        (tableReadAnswer s.straps.role s.store a.operands).2 (received a.source s)) :=
  congrArg Host.Outcome.next (receiveAsk_answered (code := 4#8)
    (carry := fun t => offerReply (replyTo a qTableRead (tableReadAnswer t.straps.role t.store a.operands).1
      (tableReadAnswer t.straps.role t.store a.operands).2) t) h.1.1 (accepted_of_asked h _) (decide_eq_true hlen)
    (t := received a.source s) rfl rfl)

theorem parseAddress_eq_none {kind : Byte} (h : 2 < kind.toNat) (channel slot : Byte) :
    parseAddress kind channel slot = none := by
  obtain ⟨m, hm⟩ := Nat.exists_eq_add_of_le' h
  rw [parseAddress, hm]; rfl

/-- An address outside the role's list is out of range. -/
theorem inRange_eq_false {r : Role} {kind channel slot : Byte} {addr : PartAddress} (ha : parseAddress kind channel slot = some addr)
    (h : (kind ≠ 0#8 ∧ (channel = 0#8 ∨ fieldChannels r < channel.toNat)) ∨ (kind = 2#8 ∧ (slot = 0#8 ∨ 8 < slot.toNat))) :
    addr.inRange r = false := by
  have hzero (b : Byte) (hb : b = 0#8) : b.toNat = 0 := by rw [hb]; rfl
  unfold parseAddress at ha
  split at ha
  · next hk =>
    rcases h with ⟨hk', -⟩ | ⟨hk', -⟩
    · exact absurd (BitVec.eq_of_toNat_eq hk) hk'
    · rw [hk'] at hk; cases hk
  · next hk =>
    obtain rfl := Option.some.inj ha
    refine decide_eq_false fun ⟨h1, hc⟩ => ?_
    rcases h with ⟨-, hch | hch⟩ | ⟨hk', -⟩
    · have := hzero _ hch; omega
    · omega
    · rw [hk'] at hk; cases hk
  · obtain rfl := Option.some.inj ha
    refine decide_eq_false fun ⟨h1, hc, hs1, hs8⟩ => ?_
    rcases h with ⟨-, hch | hch⟩ | ⟨-, hs | hs⟩
    · have := hzero _ hch; omega
    · omega
    · have := hzero _ hs; omega
    · omega
  · cases ha

/-- An address outside the role's list, or another source, names no part to read. -/
theorem tableReadAnswer_range {r : Role} (c : CorrectionStore) {kind channel slot source : Byte} (hr : r = .vector ∨ r = .scalar)
    (h : 2 < kind.toNat ∨ 1 < source.toNat ∨ (kind ≠ 0#8 ∧ (channel = 0#8 ∨ fieldChannels r < channel.toNat)) ∨
      (kind = 2#8 ∧ (slot = 0#8 ∨ 8 < slot.toNat))) :
    tableReadAnswer r c [kind, channel, slot, source] = (.range, .table (tableState c)) := by
  unfold tableReadAnswer
  rw [if_neg (by simp [storeRefuses_of_fields hr])]
  split
  · next addr set haddr hset =>
    change parseAddress kind channel slot = some addr at haddr
    change sourceSet c source = some set at hset
    rcases h with h | h | h
    · rw [parseAddress_eq_none h] at haddr; cases haddr
    · obtain ⟨m, hm⟩ := Nat.exists_eq_add_of_le' h
      rw [sourceSet, hm] at hset; cases hset
    · rw [inRange_eq_false haddr h, if_neg Bool.false_ne_true]
  · rfl

theorem sourceSet_eq (c : CorrectionStore) (working : Bool) :
    sourceSet c (if working then 1#8 else 0#8) =
      some (if working then (match c.pendingSet with | some p => p.content | none => c.active) else c.active) := by
  cases working with
  | false => rfl
  | true =>
    show (match c.pendingSet with | some p => some p.content | none => some c.active) =
      some (match c.pendingSet with | some p => p.content | none => c.active)
    cases c.pendingSet <;> rfl

/-- Settles O47. -/
theorem tableReadShowsThePart : Obligations.TableReadShowsThePart := by
  intro a s h c state
  refine ⟨fun hrole hlen => ?_, fun addr set working hrole hrange hshape hset hops => ?_,
    fun kind channel slot source hrole hops hbad => ?_⟩
  · rw [exec_tableRead h hlen, tableReadAnswer, if_pos ((storeRefuses_iff _).mpr hrole)]; rfl
  · obtain ⟨content, hcontent⟩ := partOf_isSome hshape hrange
    refine ⟨content, hcontent, ?_⟩
    have hlen : a.operands.length = 4 := by rw [hops]; cases addr <;> rfl
    have hsource : sourceSet s.store (byteAt a.operands 3) = some set := by
      rw [hops, hset]
      refine Eq.trans ?_ (sourceSet_eq s.store working)
      cases addr <;> rfl
    rw [exec_tableRead h hlen, tableReadAnswer, if_neg (by simp [storeRefuses_of_fields hrole]), hsource, hops,
      parseAddress_addressBytes hrange]
    dsimp only
    rw [if_pos hrange, hcontent]; rfl
  · rw [exec_tableRead h (by rw [hops]; rfl), hops, tableReadAnswer_range _ hrole hbad]; rfl

/-! ## TABLE WRITE -/

theorem setWidth_five (b : Byte) : b.setWidth 5 = BitVec.ofNat 5 b.toNat := (BitVec.ofNat_toNat 5 b).symm

theorem otherStation_iff (own : Station) (b : Byte) :
    otherStation own b = true ↔ 1 ≤ b.toNat ∧ b.toNat ≤ 30 ∧ b.toNat ≠ own.toNat := decide_eq_true_iff

theorem writeTarget_header (r : Role) (own : Station) (e1 e0 channel slot : Byte) {threshold age : Nat} (source : Byte)
    (ht : threshold < 16777216) (ha : age < 65536) :
    writeTarget r own ([e1, e0, 0#8, channel, slot] ++ beBytes 3 threshold ++ [source] ++ beBytes 2 age) =
      if (threshold = 0 ∨ (100 ≤ threshold ∧ threshold ≤ 1000000)) ∧
          (source = 0#8 ∨ (r ≠ .scalar ∧ 1 ≤ source.toNat ∧ source.toNat ≤ 30 ∧ source.toNat ≠ own.toNat)) ∧
          1 ≤ age ∧ age ≤ 600 then
        some (.header, .header ⟨threshold, BitVec.ofNat 5 source.toNat, age⟩)
      else none := by
  have hparse : writeTarget r own ([e1, e0, 0#8, channel, slot] ++ beBytes 3 threshold ++ [source] ++ beBytes 2 age) =
      ((parseHeader r own (beBytes 3 threshold ++ [source] ++ beBytes 2 age)).map PartContent.header).map
        fun c => (PartAddress.header, c) := rfl
  have hthreshold : beNat (bytesAt (beBytes 3 threshold ++ [source] ++ beBytes 2 age) 0 3) = threshold :=
    beNat_beBytes (k := 3) (by omega)
  have hage : beNat (bytesAt (beBytes 3 threshold ++ [source] ++ beBytes 2 age) 4 2) = age := beNat_beBytes (k := 2) (by omega)
  have hsource : byteAt (beBytes 3 threshold ++ [source] ++ beBytes 2 age) 3 = source := rfl
  rw [hparse, parseHeader, hthreshold, hage, hsource, setWidth_five]
  simp only [otherStation_iff]
  split <;> rfl

theorem sourceOf_code (r : Role) (kind : SourceKind) :
    sourceOf r kind.code = if kind = .localTE → r = .vector then some kind else none := by
  cases kind with
  | localTE => cases r <;> rfl
  | none => rfl
  | localTS => rfl
  | peer => rfl

theorem parseBase_bytes (r : Role) (own : Station) {gain : Nat} (kind : SourceKind) (station probe count : Byte)
    (hg : gain < 16777216) :
    parseBase r own (beBytes 3 gain ++ [kind.code, station, probe, count]) =
      if 1 ≤ gain ∧ count.toNat ≤ 8 ∧ (kind = .localTE → r = .vector) ∧
          (kind ≠ .peer → station = 0#8 ∧ probe = 0#8) ∧
          (kind = .peer → 1 ≤ station.toNat ∧ station.toNat ≤ 30 ∧ station.toNat ≠ own.toNat ∧
            1 ≤ probe.toNat ∧ probe.toNat ≤ 4) then
        some ⟨gain, kind, BitVec.ofNat 5 station.toNat, probe.toNat, count.toNat⟩
      else none := by
  have hgain : beNat (bytesAt (beBytes 3 gain ++ [kind.code, station, probe, count]) 0 3) = gain :=
    beNat_beBytes (k := 3) (by omega)
  have hkind : byteAt (beBytes 3 gain ++ [kind.code, station, probe, count]) 3 = kind.code := rfl
  have hstation : byteAt (beBytes 3 gain ++ [kind.code, station, probe, count]) 4 = station := rfl
  have hprobe : byteAt (beBytes 3 gain ++ [kind.code, station, probe, count]) 5 = probe := rfl
  have hcount : byteAt (beBytes 3 gain ++ [kind.code, station, probe, count]) 6 = count := rfl
  rw [parseBase, hkind, sourceOf_code, hgain, hstation, hprobe, hcount, setWidth_five]
  by_cases hTE : kind = .localTE → r = .vector
  · rw [if_pos hTE]
    dsimp only
    refine if_congr ?_ rfl rfl
    by_cases hpeer : kind = .peer
    · simp only [hpeer, if_true, Bool.and_eq_true, otherStation_iff, decide_eq_true_eq, ne_eq, not_true, false_imp_iff,
        true_imp_iff]
      tauto
    · simp only [if_false, decide_eq_true_eq, ne_eq, hpeer, not_false_eq_true, true_imp_iff, false_imp_iff]
      tauto
  · rw [if_neg hTE, if_neg fun h => hTE h.2.2.1]

theorem writeTarget_base (r : Role) (own : Station) (e1 e0 channel slot : Byte) (content : List Byte) :
    writeTarget r own ([e1, e0, 1#8, channel, slot] ++ content) =
      if 1 ≤ channel.toNat ∧ channel.toNat ≤ fieldChannels r then
        (parseBase r own content).map fun b => (.base channel.toNat, .base b)
      else none := by
  have hparse : writeTarget r own ([e1, e0, 1#8, channel, slot] ++ content) =
      if (PartAddress.base channel.toNat).inRange r = true then
        ((parseBase r own content).map PartContent.base).map fun c => (PartAddress.base channel.toNat, c)
      else none := rfl
  rw [hparse, Option.map_map]
  exact if_congr decide_eq_true_iff rfl rfl

theorem writeTarget_point (r : Role) (own : Station) (e1 e0 channel slot : Byte) (content : List Byte) :
    writeTarget r own ([e1, e0, 2#8, channel, slot] ++ content) =
      if 1 ≤ channel.toNat ∧ channel.toNat ≤ fieldChannels r ∧ 1 ≤ slot.toNat ∧ slot.toNat ≤ 8 then
        (parsePoint content).map fun p => (.point channel.toNat slot.toNat, .point p)
      else none := by
  have hparse : writeTarget r own ([e1, e0, 2#8, channel, slot] ++ content) =
      if (PartAddress.point channel.toNat slot.toNat).inRange r = true then
        ((parsePoint content).map PartContent.point).map fun c => (PartAddress.point channel.toNat slot.toNat, c)
      else none := rfl
  rw [hparse, Option.map_map]
  exact if_congr decide_eq_true_iff rfl rfl

theorem parsePoint_bytes {t scale offset : Int} (ht : -32768 ≤ t ∧ t ≤ 32767) (hs : -32768 ≤ scale ∧ scale ≤ 32767)
    (ho : -8388608 ≤ offset ∧ offset ≤ 8388607) :
    parsePoint (beSigned 2 t ++ beSigned 2 scale ++ beSigned 3 offset) =
      if -5000 ≤ t ∧ t ≤ 8000 ∧ -10000 ≤ scale ∧ scale ≤ 10000 ∧ -1000000 ≤ offset ∧ offset ≤ 1000000 then
        some ⟨t, scale, offset⟩
      else none := by
  have h0 : beInt (bytesAt (beSigned 2 t ++ beSigned 2 scale ++ beSigned 3 offset) 0 2) = t :=
    beInt_beSigned (k := 2) (by norm_num; omega) (by norm_num; omega)
  have h2 : beInt (bytesAt (beSigned 2 t ++ beSigned 2 scale ++ beSigned 3 offset) 2 2) = scale :=
    beInt_beSigned (k := 2) (by norm_num; omega) (by norm_num; omega)
  have h4 : beInt (bytesAt (beSigned 2 t ++ beSigned 2 scale ++ beSigned 3 offset) 4 3) = offset :=
    beInt_beSigned (k := 3) (by norm_num; omega) (by norm_num; omega)
  rw [parsePoint, h0, h2, h4]

/-- A guard before an optional result, and one inside it, are one guard. -/
theorem map_guarded {α β : Type} {p q : Prop} [Decidable p] [Decidable q] [Decidable (p ∧ q)] (f : α → β) (x : α) :
    (if p then ((if q then some x else none).map f) else none) = if p ∧ q then some (f x) else none := by
  by_cases hp : p <;> by_cases hq : q <;> simp [hp, hq]

/-- What a TABLE WRITE names lies in range, with a content of its kind. -/
theorem writeTarget_spec {r : Role} {own : Station} {ops : List Byte} {addr : PartAddress} {content : PartContent}
    (h : writeTarget r own ops = some (addr, content)) : addr.inRange r = true ∧ SameKind addr content := by
  unfold writeTarget at h
  split at h
  · next a ha =>
    split at h
    · next hr =>
      obtain ⟨c, hc, heq⟩ := Option.map_eq_some_iff.mp h
      obtain ⟨rfl, rfl⟩ := Prod.mk.inj heq
      refine ⟨hr, ?_⟩
      cases a with
      | header => obtain ⟨x, -, rfl⟩ := Option.map_eq_some_iff.mp hc; trivial
      | base n => obtain ⟨x, -, rfl⟩ := Option.map_eq_some_iff.mp hc; trivial
      | point n k => obtain ⟨x, -, rfl⟩ := Option.map_eq_some_iff.mp hc; trivial
    · cases h
  · cases h

theorem exec_tableWrite {a : Ask} {s : State} (h : Asked a s) (hlen : writeLengthOk a.operands = true) :
    exec (.tableWrite a) s =
      .next (answered a 5#8 (tableWriteOutcome s.straps.role s.straps.station s.store a.operands).1
        (.table (tableState (tableWriteOutcome s.straps.role s.straps.station s.store a.operands).2))
        ((received a.source s).withStore (tableWriteOutcome s.straps.role s.straps.station s.store a.operands).2)) :=
  congrArg Host.Outcome.next (receiveAsk_answered (code := 5#8)
    (carry := fun t => offerReply (replyTo a qTableWrite
        (tableWriteOutcome t.straps.role t.straps.station t.store a.operands).1
        (.table (tableState (tableWriteOutcome t.straps.role t.straps.station t.store a.operands).2)))
      (t.withStore (tableWriteOutcome t.straps.role t.straps.station t.store a.operands).2))
    h.1.1 (accepted_of_asked h _) hlen
    (t := (received a.source s).withStore (tableWriteOutcome s.straps.role s.straps.station s.store a.operands).2) rfl rfl)

/-- The order of Figure 6-6. -/
theorem tableWrite_judged {a : Ask} {s : State} (h : Asked a s) (hlen : writeLengthOk a.operands = true) :
    let c := s.store
    let edition := BitVec.ofNat 16 (beNat (a.operands.take 2))
    let fields := s.straps.role = .vector ∨ s.straps.role = .scalar
    let scheduled := ∃ p, c.pendingSet = some p ∧ p.scheduled = true
    let refuse := fun st : Status =>
      exec (.tableWrite a) s =
        .next (answered a 5#8 st (.table ⟨c.working, c.activeEdition, c.pendingState⟩) (received a.source s))
    (¬ fields → refuse .refused) ∧ (fields → scheduled → refuse .busy) ∧
    (fields → ¬ scheduled → edition ≠ c.working → refuse .stale) ∧
    (fields → ¬ scheduled → edition = c.working → writeTarget s.straps.role s.straps.station a.operands = none →
      refuse .range) ∧
    (∀ addr content, fields → ¬ scheduled → edition = c.working →
      writeTarget s.straps.role s.straps.station a.operands = some (addr, content) →
      exec (.tableWrite a) s =
        .next (answered a 5#8 .done (.table ⟨nextEdition c.working, c.activeEdition, .isOpen⟩)
          ((received a.source s).withStore (writePart c addr content)))) := by
  intro c edition fields scheduled refuse
  have hexec := exec_tableWrite h hlen
  have hnot (hf : fields) : ¬ storeRefuses s.straps.role = true := by simp [storeRefuses_of_fields hf]
  have hsched (hs : ¬ scheduled) : ¬ c.pendingState = .scheduled := mt (pendingState_scheduled_iff c).mp hs
  have hrefuse {st : Status} (hout : tableWriteOutcome s.straps.role s.straps.station s.store a.operands = (st, s.store)) :
      refuse st := by
    rw [hout] at hexec
    exact hexec
  have hedition : editionAt a.operands 0 = edition := rfl
  refine ⟨fun hf => hrefuse ?_, fun hf hs => hrefuse ?_, fun hf hs he => hrefuse ?_, fun hf hs he ht => hrefuse ?_,
    fun addr content hf hs he ht => ?_⟩
  · rw [tableWriteOutcome, if_pos (storeRefuses_of_not_fields hf)]
  · rw [tableWriteOutcome, if_neg (hnot hf), if_pos ((pendingState_scheduled_iff c).mpr hs)]
  · rw [tableWriteOutcome, if_neg (hnot hf), if_neg (hsched hs), hedition, if_pos he]
  · rw [tableWriteOutcome, if_neg (hnot hf), if_neg (hsched hs), hedition, if_neg (not_not_intro he), ht]
  · have hout : tableWriteOutcome s.straps.role s.straps.station s.store a.operands = (.done, writePart c addr content) := by
      rw [tableWriteOutcome, if_neg (hnot hf), if_neg (hsched hs), hedition, if_neg (not_not_intro he), ht]
    rw [hexec, hout]; rfl

/-- Settles O48. -/
theorem tableWriteIsJudgedInOrder : Obligations.TableWriteIsJudgedInOrder := by
  refine ⟨fun r own e1 e0 channel slot => ⟨fun kind content hk => ?_, fun threshold age source ht ha =>
    writeTarget_header r own e1 e0 channel slot source ht ha, fun gain kind station probe count hg => ?_,
    fun code x y hcode hx => ?_, fun t scale offset ht ht' hs hs' ho ho' => ?_⟩,
    fun r own ops base addr content hshape ht => ?_, fun a s h hlen => tableWrite_judged h hlen⟩
  · show (match parseAddress kind channel slot with | some addr => _ | none => none) = none
    rw [parseAddress_eq_none hk]
  · rw [List.append_assoc, writeTarget_base, parseBase_bytes r own kind station probe count hg, map_guarded]
    simp only [and_assoc]
  · obtain ⟨x0, x1, x2, rfl⟩ := List.length_eq_three.mp hx
    have hnone : parseBase r own ([x0, x1, x2] ++ ([code] ++ y)) = none := by
      have hsource : sourceOf r code = none := by
        obtain ⟨m, hm⟩ := Nat.exists_eq_add_of_le' hcode
        rw [sourceOf, hm]; rfl
      show (match sourceOf r code with | none => none | some kind => _) = none
      rw [hsource]
    rw [List.append_assoc, List.append_assoc, writeTarget_base, hnone, Option.map_none, ite_self]
  · rw [List.append_assoc, List.append_assoc, writeTarget_point, ← List.append_assoc,
      parsePoint_bytes ⟨ht, ht'⟩ ⟨hs, hs'⟩ ⟨ho, ho'⟩, map_guarded]
    simp only [and_assoc]
  · obtain ⟨hr, hkind⟩ := writeTarget_spec ht
    exact ⟨partOf_replacePart_same hshape hr hkind, setShape_replacePart addr content hshape,
      fun other hne ho => partOf_replacePart_ne base content hr ho hne⟩

/-! ## TABLE COMMIT and TABLE DISCARD -/

theorem exec_tableCommit {a : Ask} {s : State} (h : Asked a s) {edition : BitVec 16}
    (hops : a.operands = beBytes 2 edition.toNat) :
    exec (.tableCommit a) s =
      .next (answered a 6#8 (commitOutcome s.straps.role s.store edition).1
        (match (commitOutcome s.straps.role s.store edition).2.1 with
          | some f => .commitFailure (tableState (commitOutcome s.straps.role s.store edition).2.2) f.1 f.2
          | none => .table (tableState (commitOutcome s.straps.role s.store edition).2.2))
        ((received a.source s).withStore (commitOutcome s.straps.role s.store edition).2.2)) := by
  have hedition : editionAt a.operands 0 = edition := by
    rw [hops, editionAt, show bytesAt (beBytes 2 edition.toNat) 0 2 = beBytes 2 edition.toNat from rfl,
      beNat_beBytes (by have := edition.isLt; omega), BitVec.ofNat_toNat, BitVec.setWidth_eq]
  refine congrArg Host.Outcome.next (receiveAsk_answered h.1.1 (accepted_of_asked h _) (by rw [hops]; rfl)
    (t := (received a.source s).withStore (commitOutcome s.straps.role s.store edition).2.2) rfl ?_)
  rw [hedition]; rfl

theorem exec_tableDiscard {a : Ask} {s : State} (h : Asked a s) (hops : a.operands = []) :
    exec (.tableDiscard a) s =
      .next (answered a 7#8 (discardOutcome s.straps.role s.store).1
        (.table (tableState (discardOutcome s.straps.role s.store).2))
        ((received a.source s).withStore (discardOutcome s.straps.role s.store).2)) :=
  congrArg Host.Outcome.next (receiveAsk_answered (code := 7#8)
    (carry := fun t => offerReply (replyTo a qTableDiscard (discardOutcome t.straps.role t.store).1
        (.table (tableState (discardOutcome t.straps.role t.store).2))) (t.withStore (discardOutcome t.straps.role t.store).2))
    h.1.1 (accepted_of_asked h _) (by rw [hops]; rfl)
    (t := (received a.source s).withStore (discardOutcome s.straps.role s.store).2) rfl rfl)

theorem pointsRise_iff (c : CorrectionSet) : firstFault 1 c.channels = none ↔ PointsRise c := (firstFault_spec 1 c.channels).1

/-- The channel and slot that validation names (R92), as Figure 6-7 counts them. -/
theorem firstFault_named {c : CorrectionSet} (h : ¬ PointsRise c) :
    ∃ (n k : Nat) (ch : Channel), firstFault 1 c.channels = some (n + 1, k + 2) ∧ c.channels[n]? = some ch ∧ k + 2 ≤ ch.base.pointCount ∧
      (∃ x y : Point, ch.points[k]? = some x ∧ ch.points[k + 1]? = some y ∧ y.temp ≤ x.temp) ∧
      (∀ (j : Nat) (x y : Point), j < k → ch.points[j]? = some x → ch.points[j + 1]? = some y → x.temp < y.temp) ∧
      (∀ (m : Nat) (d : Channel), m < n → c.channels[m]? = some d → ((d.points.take d.base.pointCount).map Point.temp).Pairwise (· < ·)) := by
  obtain ⟨f, hf⟩ := Option.ne_none_iff_exists'.mp (mt (pointsRise_iff c).mp h)
  obtain ⟨n, ch, slot, rfl, hch, hslot, hbefore⟩ := (firstFault_spec 1 c.channels).2 f hf
  obtain ⟨k, x, y, rfl, hx, hy, hle, hrise⟩ := (firstDisorder_spec 2 _).2 slot hslot
  have hk : k + 1 < ch.base.pointCount := by
    by_contra hge
    rw [List.getElem?_take_eq_none (by omega)] at hy
    cases hy
  rw [List.getElem?_take_of_lt (by omega)] at hx hy
  refine ⟨n, k, ch, by rw [hf, Nat.add_comm 1 n, Nat.add_comm 2 k], hch, by omega, ⟨x, y, hx, hy, hle⟩, fun j u v hj hu hv => ?_,
    hbefore⟩
  exact hrise j u v hj (by rwa [List.getElem?_take_of_lt (by omega)]) (by rwa [List.getElem?_take_of_lt (by omega)])

/-- A COMMIT with a pending set: BUSY, STALE, then validation. -/
theorem commitOutcome_pending {s : State} {p : PendingSet} {edition : BitVec 16} (hf : ¬ storeRefuses s.straps.role = true)
    (hp : s.store.pendingSet = some p) :
    commitOutcome s.straps.role s.store edition =
      if p.scheduled = true then (.busy, none, s.store)
      else if edition ≠ p.edition then (.stale, none, s.store)
      else
        match firstFault 1 p.content.channels with
        | some f => (.range, some f, s.store)
        | none => (.done, none, { s.store with pendingSet := some { p with scheduled := true } }) := by
  rw [commitOutcome, if_neg hf, hp] <;> rfl

/-- Settles O49. -/
theorem tableCommitAndDiscard : Obligations.TableCommitAndDiscard := by
  intro a s h c fields state commit discard
  have hnot (hf : fields) : ¬ storeRefuses s.straps.role = true := by simp [storeRefuses_of_fields hf]
  refine ⟨fun edition hops => ?_, fun hops => ?_⟩
  · have hexec := exec_tableCommit h hops
    have hplain {st : Status} {store : CorrectionStore} (hout : commitOutcome s.straps.role s.store edition = (st, none, store)) :
        commit st (.table (tableState store)) store := by
      rw [hout] at hexec
      exact hexec
    refine ⟨fun hf => hplain ?_, fun hf hp => hplain ?_, fun p hf hp hs => hplain ?_, fun p hf hp hs he => hplain ?_,
      fun p hf hp hs he hrise => ?_, fun p hf hp hs he hrise => ?_⟩
    · rw [commitOutcome, if_pos (storeRefuses_of_not_fields hf)]
    · rw [commitOutcome, if_neg (hnot hf), hp]
    · rw [commitOutcome_pending (hnot hf) hp, if_pos hs]
    · rw [commitOutcome_pending (hnot hf) hp, if_neg (by simp [hs]), if_pos he]
    · have hout : commitOutcome s.straps.role s.store edition =
          (.done, none, { c with pendingSet := some { p with scheduled := true } }) := by
        rw [commitOutcome_pending (hnot hf) hp, if_neg (by simp [hs]), if_neg (not_not_intro he), (pointsRise_iff _).mpr hrise]
      have hworking : s.store.working = p.edition := by
        rw [CorrectionStore.working, show s.store.pendingSet = some p from hp]
      have hdone := hplain hout
      show commit .done (.table ⟨s.store.working, s.store.activeEdition, .scheduled⟩) _
      rw [hworking]
      exact hdone
    · obtain ⟨n, k, ch, hfault, hch, hk, hxy, hrising, hbefore⟩ := firstFault_named hrise
      refine ⟨n, k, ch, ?_, hch, hk, hxy, hrising, hbefore⟩
      have hout : commitOutcome s.straps.role s.store edition = (.range, some (n + 1, k + 2), c) := by
        rw [commitOutcome_pending (hnot hf) hp, if_neg (by simp [hs]), if_neg (not_not_intro he), hfault]
      rw [hout] at hexec
      exact hexec
  · have hexec := exec_tableDiscard h hops
    have hplain {st : Status} {store : CorrectionStore} (hout : discardOutcome s.straps.role s.store = (st, store)) :
        discard st (.table (tableState store)) store := by
      rw [hout] at hexec
      exact hexec
    refine ⟨fun hf => hplain ?_, fun hf hp => hplain ?_, fun p hf hp hs => hplain ?_, fun p hf hp hs => hplain ?_⟩
    · rw [discardOutcome, if_pos (storeRefuses_of_not_fields hf)]
    · rw [discardOutcome, if_neg (hnot hf), hp]
    · rw [discardOutcome, if_neg (hnot hf), show s.store.pendingSet = some p from hp]
      exact if_pos hs
    · rw [discardOutcome, if_neg (hnot hf), show s.store.pendingSet = some p from hp]
      exact if_neg (by simp [hs])

end Sys2Proof.Tables

/-! Restarts (Section 11): their entry, their completion, and what a part that is held or in STRAP FAULT does. -/

namespace Sys2Proof.Restarts

open Sys2Proof.Machine
open Sys2Proof.Keeping (restarted completeRestart_eq strapFaulty_iff sendDropped sendDropped_spec dropSent_disturbed
  waiting_ne_sending idle_ne_sending receiving_ne_sending)
open Sys2Proof.StationLine (receivePacket_of_not_taken)
open Sys2Proof.Questions (receiveAskPacket_of_not_taken receiveAsk_of_not_taken takeRestart_of_not_taken)
open Sys2Proof.RingWrite (full_iff ringWrite_consumer_of_not_full ringWrite_recordAt_producer ringWrite_recordAt_of_ne)

/-! ## The entry -/

/-- Only the line learns of the entry, each activity in its own way. -/
theorem stopLine_line (s : State) : ∃ l : LineInterface, stopLine s = s.withLine l ∧
    (s.line.activity = .waiting ∨ s.line.activity = .idle → l = s.line) ∧
    (∀ c, s.line.activity = .receiving c → l = { s.line with activity := .waiting, quiet := 0, joinCount := 0 }) ∧
    (∀ sd, s.line.activity = .sending sd →
      AfterSend sd s.line.cycle s.line.sendEnded s.line l ∧ l.score = s.line.score ∧ l.standing = s.line.standing) := by
  unfold stopLine
  cases hact : s.line.activity
  case sending sd =>
    obtain ⟨hafter, hst, hsc⟩ := sendDropped_spec sd s.line.cycle s.line.sendEnded s.line
    refine ⟨_, congrArg s.withLine (dropSent_disturbed sd s.line), fun h => ?_,
        fun c h => absurd h.symm (receiving_ne_sending c sd), fun sd' h => ?_⟩
    · rcases h with h | h
      · exact absurd h.symm (waiting_ne_sending sd)
      · exact absurd h.symm (idle_ne_sending sd)
    · cases h
      exact ⟨hafter, hsc, hst⟩
  case receiving c =>
    exact ⟨_, rfl, fun h => (by rcases h with h | h <;> cases h), fun _ _ => rfl, fun sd h => absurd h (receiving_ne_sending c sd)⟩
  case waiting => exact ⟨_, rfl, fun _ => rfl, fun _ h => (by cases h), fun sd h => absurd h (waiting_ne_sending sd)⟩
  case idle => exact ⟨_, rfl, fun _ => rfl, fun _ h => (by cases h), fun sd h => absurd h (idle_ne_sending sd)⟩

/-- The marker is none of the line's business. -/
theorem stopLine_withRing {s : State} {l : LineInterface} (h : stopLine s = s.withLine l) (r : Ring) :
    stopLine (s.withRing r) = (s.withLine l).withRing r := by
  have hcomm : stopLine (s.withRing r) = (stopLine s).withRing r := by
    show (match s.line.activity with
      | .sending sd => (s.withRing r).withLine ((s.line.dropSent sd).disturbed .waiting)
      | .receiving _ => (s.withRing r).withLine (s.line.disturbed .waiting)
      | .waiting => s.withRing r
      | .idle => s.withRing r) = _
    unfold stopLine
    cases s.line.activity <;> rfl
  rw [hcomm, h]

/-- Settles O57. -/
theorem restartIsEnteredAndCompleted : Obligations.RestartIsEnteredAndCompleted := by
  refine ⟨fun s => ?_, fun s pins => ⟨fun hr hs => ?_, fun hr hs => ?_, fun hs hl => ?_, fun h => ?_,
      fun hs hl hn => ⟨fun hr => ?_, fun hr => ?_⟩,
    fun h => ?_⟩⟩
  · obtain ⟨l, hstop, hstill, htaking, hsending⟩ := stopLine_line s
    refine ⟨l, hstill, htaking, hsending, ?_, fun hr => ?_, fun hr => ?_⟩
    · exact congrArg (fun t : State => Host.Outcome.next (t.withRestart _)) (stopLine_withRing hstop _)
    · show Host.Outcome.next (assertReset s) = _
      rw [assertReset, if_neg (by simp [hr]), hstop]
    · show Host.Outcome.next (assertReset s) = _
      rw [assertReset, if_pos hr]
  · show Host.Outcome.next (releaseReset pins s) = _
    rw [releaseReset, if_pos hr]; exact congrArg _ (if_neg (by simp [hs]))
  · show Host.Outcome.next (releaseReset pins s) = _
    rw [releaseReset, if_pos hr]; exact congrArg _ (if_pos hs)
  · show Host.Outcome.next (raiseSupply s) = _
    rw [raiseSupply, if_pos ⟨hs, hl⟩]
  · show Host.Outcome.next (raiseSupply s) = _
    rw [raiseSupply, if_neg]
    rintro ⟨hs, hl⟩
    rcases h with h | h <;> simp_all
  · show Host.Outcome.next (completeSupply pins s) = _
    rw [completeSupply, if_pos ⟨hs, hl, hn⟩]; exact congrArg _ (if_neg (by simp [hr]))
  · show Host.Outcome.next (completeSupply pins s) = _
    rw [completeSupply, if_pos ⟨hs, hl, hn⟩]; exact congrArg _ (if_pos hr)
  · show Host.Outcome.next (completeSupply pins s) = _
    rw [completeSupply, if_neg]
    rintro ⟨hs, hl, hn⟩
    have hlimit : supplyTicksNeeded = 1000000 := rfl
    rcases h with h | h | h
    · simp [hs] at h
    · simp [hl] at h
    · omega

/-! ## The completion -/

theorem completeRestart_of_faulty {p : StrapPins} (h : strapFaulty p.station = true) (s : State) :
    completeRestart p s = restarted p s := by
  rw [completeRestart_eq, if_pos h]

theorem completeRestart_of_numbered {p : StrapPins} (h : strapFaulty p.station = false) (s : State) :
    completeRestart p s = writeNote (.restart (restartKind s)) (restarted p s) := by
  rw [completeRestart_eq, if_neg (by simp [h])]

theorem freshLine_of_numbered {n : Station} (h : strapFaulty n = false) :
    freshLine n = ⟨.joining, 0, .waiting, 0, 0, none, none, [], [], [], none, none, 1, false, false⟩ := by
  rw [freshLine, h]; rfl

theorem fits_iff (c : CorrectionStore) (st : Straps) :
    c.fits st = true ↔ c.loadedRole = st.role ∧ c.active.names st.station = false := by
  rw [CorrectionStore.fits, Bool.and_eq_true, decide_eq_true_iff, Bool.not_eq_true']

theorem store_restarted_frame (k : RestartKind) (st : Straps) (c : CorrectionStore) :
    (c.restarted k st).pendingSet = none ∧ (c.restarted k st).outgoing = none ∧ (c.restarted k st).loadedRole = st.role := by
  unfold CorrectionStore.restarted
  split
  · next h => exact ⟨rfl, rfl, ((fits_iff c st).mp h.2).1⟩
  · exact ⟨rfl, rfl, rfl⟩

theorem store_restarted_kept {st : Straps} {c : CorrectionStore} (h : c.fits st = true) :
    (c.restarted .warm st).active = c.active ∧ (c.restarted .warm st).activeEdition = c.activeEdition := by
  rw [CorrectionStore.restarted, if_pos ⟨rfl, h⟩]; exact ⟨rfl, rfl⟩

theorem store_restarted_default {k : RestartKind} {st : Straps} {c : CorrectionStore} (h : ¬ (k = .warm ∧ c.fits st = true)) :
    (c.restarted k st).active = defaultSet st.role ∧ (c.restarted k st).activeEdition = 0#16 := by
  rw [CorrectionStore.restarted, if_neg h]; exact ⟨rfl, rfl⟩

/-- The RESTART note finds the ring as the restart leaves it: emptied by a cold one, kept by a warm one. -/
theorem restarted_ring {p : StrapPins} (h : strapFaulty p.station = false) (s : State) :
    (restarted p s).ring = if restartKind s = .cold then ⟨[], 0#16, 0#16, 0, true, []⟩ else s.ring := by
  show s.ring.restarted (restartKind s) (strapFaulty p.station) = _
  rw [h]
  cases restartKind s <;> rfl

/-- The first record of an empty ring. -/
theorem ringWrite_of_empty {s : State} (h : s.ring = ⟨[], 0#16, 0#16, 0, true, []⟩) (c : RecordContent) :
    (ringWrite c s).ring = ⟨[(0, s.recordOf c)], 1#16, 0#16, 1, true, []⟩ := by
  have hfull : Ring.full ⟨[], 0#16, 0#16, 0, true, []⟩ = false := by decide
  have hplace : placeOf 0#16 = 0 := by decide
  rw [ringWrite_ring, h]
  simp [hfull, hplace, insertPlace, ringPlaces]

theorem restartKind_marker (s : State) : restartKind s = .warm → s.ring.marker = true := by
  unfold restartKind
  split
  · next h => exact fun _ => h
  · exact fun h => by cases h

/-- Settles O59. -/
theorem restartKeepsWhatItsKindKeeps : Obligations.RestartKeepsWhatItsKindKeeps := by
  intro s pins h0 h31 t kind role
  have hnum : strapFaulty pins.station = false := by
    rw [Bool.eq_false_iff, ne_eq, strapFaulty_iff]; tauto
  have hrole : role = roleOfStrap pins.role := by
    simp only [role]
    generalize pins.role = code
    revert code
    decide
  have hkind : kind = restartKind s := rfl
  have ht : t = ringWrite (.note (s.clock.restarted (restartKind s)).time (.restart (restartKind s))) (restarted pins s) :=
    completeRestart_of_numbered hnum s
  clear_value t kind role
  subst hrole hkind ht
  obtain ⟨hpending, hout, hloaded⟩ := store_restarted_frame (restartKind s) (sampleStraps pins) s.store
  have hring := restarted_ring hnum s
  refine ⟨rfl, rfl, rfl, freshLine_of_numbered hnum, rfl, rfl, rfl, rfl, hpending, hout, hloaded, rfl, rfl, rfl, fun hcold => ?_,
    fun hwarm => ?_⟩
  · obtain ⟨hactive, hedition⟩ := store_restarted_default (k := restartKind s) (st := sampleStraps pins) (c := s.store)
      (by rw [hcold]; exact fun h => by cases h.1)
    rw [if_pos hcold] at hring
    refine ⟨?_, hactive, hedition, ?_, ?_, ?_⟩
    · show s.clock.restarted (restartKind s) = _
      rw [hcold]; rfl
    · show s.assembler.restarted (restartKind s) = _
      rw [hcold]; rfl
    · rw [ringWrite_spec, hring]; rfl
    · rw [ringWrite_of_empty hring, State.recordOf, hring, hcold]; rfl
  · have hkeep := restartKind_marker s hwarm
    rw [if_neg (by rw [hwarm]; exact fun h => by cases h)] at hring
    have hheld : restarted pins s = (restarted pins s).withRing s.ring := by rw [← hring]; rfl
    have hfull : s.ring.full = decide ((s.ring.producer - s.ring.consumer).toNat = 1024) := by
      rw [Bool.eq_iff_iff, decide_eq_true_iff]; exact full_iff s.ring
    rw [hheld, hwarm]
    refine ⟨?_, fun hrole hnames => ?_, fun hother => ?_, ?_, rfl, rfl, hkeep, fun hroom => ?_, fun q hq => ?_, ?_, ?_⟩
    · show s.clock.restarted (restartKind s) = _
      rw [hwarm]; rfl
    · show (s.store.restarted (restartKind s) (sampleStraps pins)).active = _ ∧
        (s.store.restarted (restartKind s) (sampleStraps pins)).activeEdition = _
      rw [hwarm]
      exact store_restarted_kept ((fits_iff _ _).mpr ⟨hrole, hnames⟩)
    · refine store_restarted_default fun h => ?_
      obtain ⟨hrole, hnames⟩ := (fits_iff _ _).mp h.2
      rcases hother with hother | hother
      · exact hother hrole
      · rw [show (sampleStraps pins).station = pins.station from rfl, hother] at hnames; cases hnames
    · show s.assembler.restarted (restartKind s) = _
      rw [hwarm]; rfl
    · refine ringWrite_consumer_of_not_full (s := (restarted pins s).withRing s.ring) ?_
      exact mt (full_iff s.ring).mp hroom
    · exact ringWrite_recordAt_of_ne (s := (restarted pins s).withRing s.ring) hq
    · exact ringWrite_recordAt_producer (s := (restarted pins s).withRing s.ring)
    · rw [← hfull]; rfl

/-! ## A part that does not run -/

/-- While the part is held, and in STRAP FAULT, no block runs. -/
theorem not_running {s : State} (h : s.line.standing = .strapFault ∨ s.held = true) : s.running = false := by
  unfold State.running
  rcases h with h | h <;> simp [h]

/-- An event that asks for running blocks does nothing while they do not run. -/
theorem stays {s t : State} {p : Prop} [Decidable p] (h : s.running = false) :
    (Host.Outcome.next (if s.running = true ∧ p then t else s) : Host.Outcome State Fault Refusal) = .next s :=
  congrArg _ (if_neg fun hp => by simp [h] at hp)

theorem takesPackets_of_not_running {s : State} (h : s.running = false) : s.takesPackets = false := by
  simp [State.takesPackets, h]

theorem takesAsk_of_not_running {s : State} (h : s.running = false) (src : Station) : s.takesAsk src = false := by
  simp [State.takesAsk, State.takesPackets, h]

/-- What may be due afterwards where no block runs: what was, or, unless the part is held, the MARK of a whole second. -/
def DueWithoutBlocks (s : State) (d : Due) : Prop :=
  (s.held = true → d = s.due) ∧ (d = s.due ∨ ∃ sec, d = { Due.clear with second := ⟨sec, 0⟩, mark := true })

theorem reach_of_not_running {s : State} (h : s.running = false) (t : HutTime) :
    ∃ d, reach t false s = s.withDue d ∧ DueWithoutBlocks s d := by
  unfold reach
  split
  · exact ⟨s.due, rfl, fun _ => rfl, .inl rfl⟩
  next hheld =>
    split
    · next hwhole =>
      have htick : t.tick = 0 := of_decide_eq_true hwhole
      refine ⟨_, rfl, fun hh => absurd hh hheld, .inr ⟨t.sec, ?_⟩⟩
      rw [← htick]
      simp [State.dueAt, h, Due.clear]
    · exact ⟨s.due, if_neg (by simp [h]), fun _ => rfl, .inl rfl⟩

/-- However far the edge advances, the last whole second reached decides. -/
theorem reachAll_of_not_running {s : State} (h : s.running = false) (t : HutTime) :
    ∀ n, ∃ d, reachAll t n s = s.withDue d ∧ DueWithoutBlocks s d
  | 0 => ⟨s.due, rfl, fun _ => rfl, .inl rfl⟩
  | n + 1 => by
    obtain ⟨d, hd, hheld, hdue⟩ := reachAll_of_not_running h t n
    obtain ⟨d', hd', hheld', hdue'⟩ := reach_of_not_running (s := s.withDue d) h (t.add ((n : Int) + 1))
    refine ⟨d', ?_, fun hh => (hheld' hh).trans (hheld hh), ?_⟩
    · rw [reachAll, hd, hd']; rfl
    · rcases hdue' with rfl | hsec
      · exact hdue
      · exact .inr hsec

theorem edge_held (r : RestartState) : r.edge.resetLow = r.resetLow ∧ r.edge.supplyHold = r.supplyHold := by
  unfold RestartState.edge
  split <;> exact ⟨rfl, rfl⟩

/-- Clock, supply monitor and lapping moment of an edge, for any clock it leaves. -/
theorem reachAll_counted {s : State} (h : s.running = false) (k : HutClock) (t : HutTime) (n : Nat) :
    ∃ d, reachAll t n (((s.withClock k).withRestart s.restart.edge).withRing { s.ring with lappedNow := [] }) =
        (((s.withClock k).withRestart s.restart.edge).withDue d).withRing { s.ring with lappedNow := [] } ∧
      DueWithoutBlocks s d := by
  obtain ⟨hlow, hhold⟩ := edge_held s.restart
  have hheld : (((s.withClock k).withRestart s.restart.edge).withRing { s.ring with lappedNow := [] }).held = s.held := by
    show (s.restart.edge.resetLow || s.restart.edge.supplyHold) = _
    rw [hlow, hhold]; rfl
  have hrun : (((s.withClock k).withRestart s.restart.edge).withRing { s.ring with lappedNow := [] }).running = false := by
    rw [State.running, hheld]; exact h
  obtain ⟨d, hd, hsame, hdue⟩ := reachAll_of_not_running hrun t n
  exact ⟨d, hd, fun hh => hsame (hheld.trans hh), hdue⟩

theorem oscillate_of_not_running {s : State} (h : s.running = false) :
    ∃ k r d, oscillate s = (((s.withClock k).withRestart r).withDue d).withRing { s.ring with lappedNow := [] } ∧
      DueWithoutBlocks s d := by
  unfold oscillate edgeCounts
  rw [if_neg (by simp [h])]
  obtain ⟨d, hd, hdue⟩ := reachAll_counted h s.clock.edge s.clock.time (advanceOf (s.clock.accumulator + s.clock.trim))
  exact ⟨_, _, d, hd, hdue⟩

/-- In STRAP FAULT the MARK's slot accepts nothing. -/
theorem offerMark_of_strapFault {s : State} (h : s.line.standing = .strapFault) (q : BitVec 8) : offerMark q s = s := by
  rcases offerMark_spec q s with ⟨hacc, -⟩ | ⟨-, hsame⟩
  · simp [State.accepts, h] at hacc
  · exact hsame

theorem changeInput_of_not_running {s : State} (h : s.running = false) (i : DistInput) (active : Bool) :
    changeInput i active s = s.withPins (s.pins.setDist active i) := by
  unfold changeInput
  exact if_neg (by simp [h])

section NotRunning

variable {s : State} (h : s.running = false)

include h

theorem loseContest_of_not_running : loseContest s = s := by
  unfold loseContest
  cases s.line.activity <;> simp [h]

theorem takeBitFault_of_not_running (late : Bool) : takeBitFault late s = s := by
  unfold takeBitFault
  cases s.line.activity <;> simp [h]

theorem endSend_of_not_running (acked : Bool) : endSend acked s = s := by
  unfold endSend
  cases s.line.activity <;> simp [h]

theorem takeFastEpoch_of_not_running : takeFastEpoch s = s := by
  unfold takeFastEpoch
  cases s.due.fast <;> simp [h]

end NotRunning

/-- Settles O60: events that need running blocks, packets and ASKs do nothing; the others are taken one by one. -/
theorem strapFaultIsInert : Obligations.StrapFaultIsInert := by
  refine ⟨fun s pins hstation => ?_, fun s c h => ?_⟩
  · have hfaulty := (strapFaulty_iff pins.station).mpr hstation
    rw [completeRestart_of_faulty hfaulty]
    refine ⟨?_, ?_, rfl, rfl⟩
    · show (if strapFaulty pins.station then Standing.strapFault else .joining) = _
      rw [if_pos hfaulty]
    · show s.ring.restarted (restartKind s) (strapFaulty pins.station) = _
      exact if_pos hfaulty
  · have hrun := not_running h
    have hpacket (src : Station) (owner : Option HutTime → State → State) :
        (Host.Outcome.next (receivePacket src owner s) : Host.Outcome State Fault Refusal) = .next s :=
      congrArg _ (receivePacket_of_not_taken (takesPackets_of_not_running hrun) src owner)
    have hask (a : Ask) (pins : StrapPins) (code : Byte) (p : List Byte) :=
      Questions.no_ask_taken a pins s code p (takesAsk_of_not_running hrun a.source)
    have hidle {t : State} : (Host.Outcome.next (if s.running = true then t else s) : Host.Outcome State Fault Refusal) = .next s :=
      congrArg _ (if_neg (by simp [hrun]))
    have hreference : followsReference s = false := by simp [followsReference, hrun]
    cases c with
    | supplyFall => trivial
    | supplyRecovery m => trivial
    | resetAsserted => trivial
    | resetReleased pins => trivial
    | oscillatorEdge =>
      obtain ⟨k, r, d, heq, hdue⟩ := oscillate_of_not_running hrun
      exact ⟨k, r, d, congrArg _ heq, hdue⟩
    | markOffer =>
      refine ⟨fun hheld => congrArg _ (if_neg (by simp [hheld])), ?_⟩
      by_cases hdue : s.held = false ∧ s.due.mark = true
      · refine ⟨_, _, congrArg _ ((if_pos hdue).trans (offerMark_of_strapFault ?_ _))⟩
        exact h.resolve_right (by simp [hdue.1])
      · exact ⟨s.clock.markSeq, s.due, congrArg _ (if_neg hdue)⟩
    | disturbanceInputChange i active => cases i <;> exact congrArg _ (changeInput_of_not_running hrun _ active)
    | lockChange active => exact congrArg _ (if_neg (by simp [hreference]))
    | lineIdle => exact stays hrun
    | joiningCountExpiry => exact stays hrun
    | presenceExpiry n => exact stays hrun
    | debounceExpiry i => exact stays hrun
    | rollOffer => exact stays hrun
    | roundEnd => exact stays hrun
    | conversionSetComplete bit => exact stays hrun
    | baseEpoch => exact stays hrun
    | promotion => exact stays hrun
    | queryConsideration => exact stays hrun
    | queryTimeout tag => exact stays hrun
    | tempPublication => exact stays hrun
    | dominantLevelWhileNotIdle => exact hidle
    | syncEdge => exact hidle
    | serialClockEdge bit => exact hidle
    | holdExpiry => exact hidle
    | sendBegin => exact congrArg _ (if_neg (by simp [mayBegin, hrun]))
    | receiveFault kind => exact congrArg _ (if_neg (by simp [takesPackets_of_not_running hrun]))
    | ppsEdge => exact congrArg _ (if_neg (by simp [hreference]))
    | ppsAgeExpiry => exact congrArg _ (if_neg (by simp [hreference]))
    | contestLost => exact congrArg Host.Outcome.next (loseContest_of_not_running hrun)
    | bitFault late => exact congrArg Host.Outcome.next (takeBitFault_of_not_running hrun late)
    | sendEnd acked => exact congrArg Host.Outcome.next (endSend_of_not_running hrun acked)
    | fastEpoch => exact congrArg Host.Outcome.next (takeFastEpoch_of_not_running hrun)
    | ownNumberPacket => exact hpacket _ _
    | flagReceived src p => exact hpacket _ _
    | rollReceived src p => exact hpacket _ _
    | markReceived src p => exact hpacket _ _
    | tempReceived src p => exact hpacket _ _
    | obsReceived src p => exact hpacket _ _
    | replyReceived src p => exact hpacket _ _
    | status a => exact hask a ⟨0, 0, 0⟩ 0 [] _ (by simp)
    | readWindow a => exact hask a ⟨0, 0, 0⟩ 0 [] _ (by simp)
    | consume a => exact hask a ⟨0, 0, 0⟩ 0 [] _ (by simp)
    | tableRead a => exact hask a ⟨0, 0, 0⟩ 0 [] _ (by simp)
    | tableWrite a => exact hask a ⟨0, 0, 0⟩ 0 [] _ (by simp)
    | tableCommit a => exact hask a ⟨0, 0, 0⟩ 0 [] _ (by simp)
    | tableDiscard a => exact hask a ⟨0, 0, 0⟩ 0 [] _ (by simp)
    | tempNow a => exact hask a ⟨0, 0, 0⟩ 0 [] _ (by simp)
    | fence a => exact hask a ⟨0, 0, 0⟩ 0 [] _ (by simp)
    | clearConditions a => exact hask a ⟨0, 0, 0⟩ 0 [] _ (by simp)
    | restartWarm a pins => exact hask a pins 0 [] _ (by simp)
    | restartCold a pins => exact hask a pins 0 [] _ (by simp)
    | unknownQuestion a code => exact hask a ⟨0, 0, 0⟩ code [] _ (by simp)
    | askDropped src p => exact hask ⟨src, 0, 0, []⟩ ⟨0, 0, 0⟩ 0 p _ (by simp)

end Sys2Proof.Restarts

/-! Epochs (Sections 5 and 7): entries opened, recorded at once in role T, completed by a set, closed at their hold's end. -/

namespace Sys2Proof.Epochs

open Sys2Proof.Machine
open Sys2Proof.Arrivals (closeComplete_of_incomplete closeComplete_of_empty releaseFrom_of_open)
open Sys2Proof.Presence (offerTemp_eq clampInt_eq)

/-! ## Openings -/

theorem opensFor_iff (e : HutTime) (s : State) :
    opensFor e s = true ↔ ∀ x, s.assembler.lastOpened = some x → e.later x = true := by
  unfold opensFor
  cases s.assembler.lastOpened <;> simp

theorem openEpoch_of_not_later {kind : EpochKind} {e : HutTime} {s : State}
    (h : ¬ ∀ x, s.assembler.lastOpened = some x → e.later x = true) : openEpoch kind e s = s :=
  if_neg fun hp => h ((opensFor_iff e s).mp hp.1)

theorem openEpoch_of_later {kind : EpochKind} {e : HutTime} {s : State}
    (h : ∀ x, s.assembler.lastOpened = some x → e.later x = true) (hroom : s.assembler.queue.length < 4) :
    openEpoch kind e s =
      closeComplete (s.withAssembler
        { s.assembler with
          queue := s.assembler.queue ++ [newEntry kind e s], lastOpened := some e, stepMark := false }) :=
  if_pos ⟨(opensFor_iff e s).mpr h, hroom⟩

/-- An entry of a field role awaits a bracket when it opens. -/
theorem newEntry_incomplete {s : State} (hr : s.straps.role = .vector ∨ s.straps.role = .scalar) (kind : EpochKind) (e : HutTime) :
    (newEntry kind e s).isComplete s.straps.role = false := by
  rcases hr with hr | hr <;> rw [hr] <;> rfl

/-- In roles V and S an opening only appends its entry. -/
theorem openEpoch_field {kind : EpochKind} {e : HutTime} {s : State}
    (hr : s.straps.role = .vector ∨ s.straps.role = .scalar) (hinv : AssemblyInv s) (hroom : s.assembler.queue.length < 4)
    (h : ∀ x, s.assembler.lastOpened = some x → e.later x = true) :
    openEpoch kind e s =
      s.withAssembler
        { s.assembler with
          queue := s.assembler.queue ++ [newEntry kind e s], lastOpened := some e, stepMark := false } := by
  obtain ⟨-, -, -, hopen, hhead, -⟩ := hinv
  rw [openEpoch_of_later h hroom]
  refine closeComplete_of_incomplete (fun x hx hc => ?_) fun x hx => ?_
  · rcases List.mem_append.mp hx with hx | hx
    · exact hopen x hx hc
    · rw [List.mem_singleton.mp hx]; exact newEntry_incomplete hr kind e
  · rw [State.withAssembler_assembler, List.head?_append, Option.or_eq_some_iff] at hx
    rcases hx with hx | ⟨-, hx⟩
    · exact hhead x hx
    · cases hx; rfl

theorem contributionAtOpening_eq (e : HutTime) (source : Option Station) (s : State) :
    contributionAtOpening e source s =
      source.bind fun n => (s.query.heldObs n).bind fun o => if o.instant = e then some o else none := by
  cases source with
  | none => rfl
  | some n =>
    rw [contributionAtOpening, Option.bind_some]
    cases s.query.heldObs n <;> rfl

theorem awaitedScalar_base (s : State) :
    awaitedScalar .base s =
      if s.straps.role = .vector ∧ s.store.active.header.scalarSource ≠ 0#5 then some s.store.active.header.scalarSource
      else none :=
  if_congr (by simp) rfl rfl

theorem awaitedScalar_fast (s : State) : awaitedScalar .fast s = none := if_neg fun h => by cases h.2.1

/-- The state in which a base entry opens: the event taken, the cadence read from the wire OR. -/
def cadenceRead (s : State) : State :=
  (s.withDue { s.due with base := false }).withAssembler
    { s.assembler with cadence := if s.presence.wireOr.storm then .storm else .base }

/-- The state in which a fast entry opens. -/
def fastTaken (s : State) : State := s.withDue { s.due with fast := none }

theorem exec_baseEpoch {s : State} (hrun : s.running = true) (hdue : s.due.base = true) (hpromote : s.due.promote = false) :
    exec .baseEpoch s =
      .next (openEpoch .base s.due.second (cadenceRead s)) :=
  congrArg _ (if_pos ⟨hrun, hdue, hpromote⟩)

theorem exec_fastEpoch {s : State} (hrun : s.running = true) {e : HutTime} (hdue : s.due.fast = some e) :
    exec .fastEpoch s = .next (openEpoch .fast e (fastTaken s)) := by
  show Host.Outcome.next (takeFastEpoch s) = _
  rw [takeFastEpoch, hdue]
  exact congrArg _ (if_pos hrun)

/-- Settles O35. -/
theorem epochInstantOpensAnEntry : Obligations.EpochInstantOpensAnEntry := by
  intro s hrun hr hinv hroom source entry later
  have hentry (kind : EpochKind) (e : HutTime) (t : State) (hp : t.presence = s.presence) (hk : t.clock = s.clock)
      (hst : t.store = s.store) (hq : t.query = s.query) (hm : t.assembler.stepMark = s.assembler.stepMark) :
      newEntry kind e t = entry kind e (awaitedScalar kind t) := by
    simp only [newEntry, entry, contributionAtOpening_eq, hp, hk, hst, hq, hm]
  have hbase := hentry .base s.due.second (cadenceRead s) rfl rfl rfl rfl rfl
  have hfast (e : HutTime) := hentry .fast e (fastTaken s) rfl rfl rfl rfl rfl
  rw [awaitedScalar_base] at hbase
  simp only [awaitedScalar_fast] at hfast
  refine ⟨fun hdue hpromote => ⟨fun h => ?_, fun h => ?_⟩, fun e hdue => ⟨fun h => ?_, fun h => ?_⟩⟩
  · rw [exec_baseEpoch hrun hdue hpromote, openEpoch_field (s := cadenceRead s) hr hinv hroom h, hbase]; rfl
  · rw [exec_baseEpoch hrun hdue hpromote, openEpoch_of_not_later (s := cadenceRead s) h]; rfl
  · rw [exec_fastEpoch hrun hdue, openEpoch_field (s := fastTaken s) hr hinv hroom h, hfast]; rfl
  · rw [exec_fastEpoch hrun hdue, openEpoch_of_not_later (s := fastTaken s) h]; rfl

/-! ## Role T -/

theorem dropOutgoing_of_none {s : State} (h : s.store.outgoing = none) (edition : BitVec 16) (rest : List Entry) :
    dropOutgoing edition rest s = s := by
  rw [dropOutgoing, h]

/-- An entry alone in role T's queue closes at once, is written, and as a base one places a TEMP. -/
theorem closeComplete_thermal {s : State} {e : Entry} (hr : s.straps.role = .thermal) (hq : s.assembler.queue = [e])
    (hopen : e.closed = none) (hout : s.store.outgoing = none) :
    closeComplete s =
      let t := ringWrite (recordContent e (closeThermal s.port.history e .complete)) (s.withAssembler { s.assembler with queue := [] })
      if e.kind = .base then offerTemp (ownTemp s) t else t := by
  have hclose : closeEntry s .complete e = { e with closed := some (closeThermal s.port.history e .complete) } := by
    simp only [closeEntry, hopen, closeWith, if_pos hr]
  unfold closeComplete closeAndRelease
  rw [hq, hr]
  simp only [List.map_cons, List.map_nil, Entry.isComplete, if_true, hclose, releaseFrom, releaseOne]
  rw [dropOutgoing_of_none]
  · simp only [afterBase, ringWrite_straps, State.withAssembler_straps, hr]
    rfl
  · split
    · simp only [afterBase, ringWrite_straps, State.withAssembler_straps, hr, offerTemp_eq]
      exact hout
    · exact hout

/-- Settles O36. -/
theorem thermalEpochIsRecordedAtOnce : Obligations.ThermalEpochIsRecordedAtOnce := by
  intro s hrun hr hinv hout later temps content
  obtain ⟨-, -, -, -, -, hempty⟩ := hinv
  have hq := hempty (.inl hr)
  have hcontent (kind : EpochKind) (e : HutTime) (t : State) (hp : t.presence = s.presence) (hk : t.clock = s.clock)
      (hst : t.store = s.store) (hm : t.assembler.stepMark = s.assembler.stepMark) :
      recordContent (newEntry kind e t) (closeThermal s.port.history (newEntry kind e t) .complete) = content kind e := by
    simp only [newEntry, content, temps, recordContent, closeThermal, newestAtOrBefore, hp, hk, hst, hm]
    cases (s.port.history.filter fun x => !x.capture.later e).getLast? <;> rfl
  have hopened (kind : EpochKind) (e : HutTime) (t : State) (htr : t.straps.role = .thermal) (htq : t.assembler.queue = [])
      (hto : t.store.outgoing = none) (h : ∀ x, t.assembler.lastOpened = some x → e.later x = true) :
      openEpoch kind e t =
        let u := ringWrite (recordContent (newEntry kind e t) (closeThermal t.port.history (newEntry kind e t) .complete))
          (t.withAssembler { t.assembler with lastOpened := some e, stepMark := false })
        if kind = .base then offerTemp (ownTemp t) u else u := by
    rw [openEpoch_of_later h (by rw [htq]; decide), htq]
    refine (closeComplete_thermal (e := newEntry kind e t) ?_ rfl rfl ?_).trans ?_
    · exact htr
    · exact hto
    · rw [← htq]; rfl
  refine ⟨fun hdue hpromote => ⟨fun h => ?_, fun h => ?_⟩, fun e hdue => ⟨fun h => ?_, fun h => ?_⟩⟩
  · rw [exec_baseEpoch hrun hdue hpromote, hopened _ _ (cadenceRead s) hr hq hout h]
    show Host.Outcome.next (offerTemp (ownTemp (cadenceRead s)) (ringWrite (recordContent (newEntry .base s.due.second (cadenceRead s))
      (closeThermal s.port.history (newEntry .base s.due.second (cadenceRead s)) .complete)) _)) = _
    rw [hcontent .base s.due.second (cadenceRead s) rfl rfl rfl rfl, ownTemp, show (cadenceRead s).straps.role = .thermal from hr]; rfl
  · rw [exec_baseEpoch hrun hdue hpromote, openEpoch_of_not_later (s := cadenceRead s) h]; rfl
  · rw [exec_fastEpoch hrun hdue, hopened _ _ (fastTaken s) hr hq hout h]
    show Host.Outcome.next (ringWrite (recordContent (newEntry .fast e (fastTaken s))
      (closeThermal s.port.history (newEntry .fast e (fastTaken s)) .complete)) _) = _
    rw [hcontent .fast e (fastTaken s) rfl rfl rfl rfl]; rfl
  · rw [exec_fastEpoch hrun hdue, openEpoch_of_not_later (s := fastTaken s) h]; rfl

/-! ## The last bit of a set -/

theorem afterBase_port (c : Closed) (r : Record) (s : State) : (afterBase c r s).port = s.port := by
  have hobs : (offerObs (.record r) (stormRecord c.slots s)).port = s.port := by
    rcases offerObs_spec (.record r) (stormRecord c.slots s) with ⟨-, h⟩ | ⟨-, h⟩ <;> rw [h, stormRecord_frame] <;> rfl
  unfold afterBase
  cases s.straps.role with
  | vector => exact hobs
  | scalar => exact hobs
  | thermal => rw [offerTemp_eq]; rfl
  | clock => rfl

theorem dropOutgoing_port (edition : BitVec 16) (rest : List Entry) (s : State) : (dropOutgoing edition rest s).port = s.port := by
  unfold dropOutgoing
  split
  · split <;> rfl
  · rfl

theorem releaseOne_port (e : Entry) (c : Closed) (rest : List Entry) (s : State) : (releaseOne e c rest s).port = s.port := by
  rw [releaseOne, dropOutgoing_port]
  split
  · rw [afterBase_port]; rfl
  · rfl

/-- Releases leave the sample port alone. -/
theorem releaseFrom_port : ∀ (q : List Entry) (s : State), (releaseFrom q s).port = s.port
  | [], _ => rfl
  | e :: rest, s => by
    rw [releaseFrom]
    split
    · rfl
    · rw [releaseFrom_port rest, releaseOne_port]

theorem setArrived_port (x : SampleSet) (s : State) : (setArrived x s).port = s.port := by
  unfold setArrived
  cases s.straps.role with
  | vector => exact releaseFrom_port _ _
  | scalar => exact releaseFrom_port _ _
  | thermal => rfl
  | clock => rfl

theorem setArrived_field {s : State} (hr : s.straps.role = .vector ∨ s.straps.role = .scalar) (x : SampleSet) :
    setArrived x s =
      closeComplete (s.withAssembler { s.assembler with queue := s.assembler.queue.map (takeBracket s.port.history x) }) := by
  unfold setArrived
  rcases hr with hr | hr <;> rw [hr]

/-- Where nothing can await the set, its arrival changes nothing. -/
theorem setArrived_idle {s : State} (h : s.straps.role = .thermal ∨ s.straps.role = .clock ∨ s.assembler.queue = [])
    (x : SampleSet) : setArrived x s = s := by
  have hempty (hq : s.assembler.queue = []) :
      closeComplete (s.withAssembler { s.assembler with queue := s.assembler.queue.map (takeBracket s.port.history x) }) = s := by
    rw [hq, List.map_nil, closeComplete_of_empty rfl, ← hq]; rfl
  unfold setArrived
  cases hr : s.straps.role with
  | vector => exact hempty (by simpa [hr] using h)
  | scalar => exact hempty (by simpa [hr] using h)
  | thermal => rfl
  | clock => rfl

theorem push_last {o : OpenSet} (h : o.bits = 23) (bit : Bool) :
    o.push bit =
      { o with words := o.words ++ [(o.shift <<< 1) ||| BitVec.ofNat 24 bit.toNat], bits := 0, shift := 0#24 } :=
  if_pos (by omega)

theorem complete_push_last {o : OpenSet} {r : Role} (h : o.bits = 23) (hwords : o.words.length + 1 = wordsPerSet r) (bit : Bool) :
    (o.push bit).complete r = true := by
  rw [push_last h]
  exact decide_eq_true (by simp [hwords])

/-- The temperatures in force after a set: those of its valid words, the last valid ones elsewhere. -/
theorem mergeTemps_decoded (last : List (Option Int)) (words : List (BitVec 24)) :
    mergeTemps (words.map decodeTemp) last =
      (last.zip words).map fun p => if p.2.toInt = -8388608 then p.1 else some (max (-5000) (min 8000 p.2.toInt)) := by
  rw [mergeTemps, List.zip_map_right, List.map_map]
  refine List.map_congr_left fun p _ => ?_
  show (decodeTemp p.2).or p.1 = _
  rw [decodeTemp, clampInt_eq (by decide)]
  split <;> rfl

theorem passesOrder_iff (t : HutTime) (h : List SampleSet) :
    passesOrder t h = true ↔ ∀ y, h.getLast? = some y → t.later y.capture = true := by
  unfold passesOrder
  cases h.getLast? <;> simp

theorem enterHistory_eq (x : SampleSet) (h : List SampleSet) :
    enterHistory x h = (if h.length < 8 then h else h.tail) ++ [x] := by
  rw [enterHistory, apply_ite (· ++ [x])]; rfl

/-- Settles O34. -/
theorem lastBitCompletesTheSet : Obligations.LastBitCompletesTheSet := by
  intro s o bit hrun ho hwords hbits words temps x
  have hcomplete (b : Bool) := complete_push_last hbits hwords b
  have hedge : exec (.serialClockEdge bit) s = .next (completeSet (o.push bit) s) := by
    show Host.Outcome.next (if s.running then takeBit bit s else s) = _
    rw [if_pos hrun, takeBit, ho]
    exact congrArg _ (if_pos (hcomplete bit))
  have hset : exec (.conversionSetComplete bit) s = exec (.serialClockEdge bit) s := by
    have hlast : lastBitNext s = true := by rw [lastBitNext, ho]; exact hcomplete false
    show Host.Outcome.next (if s.running = true ∧ lastBitNext s = true then takeBit bit s else s) =
      .next (if s.running then takeBit bit s else s)
    rw [if_pos ⟨hrun, hlast⟩, if_pos hrun]
  have hx : decodeSet s.straps.role s.port.lastTemps (o.push bit) = x := by
    rw [push_last hbits]
    exact congrArg (SampleSet.mk o.capture _) (mergeTemps_decoded _ _)
  have hcapture : (o.push bit).capture = o.capture := by rw [push_last hbits]
  refine ⟨hset, ?_, fun horder => ?_⟩
  · rintro ⟨y, hy, hearly⟩
    have hpass : ¬ passesOrder o.capture s.port.history = true := fun h => by
      rw [(passesOrder_iff _ _).mp h y hy] at hearly; cases hearly
    rw [hset, hedge, completeSet, hcapture]
    exact congrArg _ (if_neg hpass)
  · obtain ⟨p, hp⟩ : ∃ p : SamplePort, p =
        { openSet := none
          history := (if s.port.history.length < 8 then s.port.history else s.port.history.tail) ++ [x]
          lastTemps := temps } := ⟨_, rfl⟩
    have hdone : completeSet (o.push bit) s = setArrived x (s.withPort p) := by
      rw [completeSet, hcapture, hp, ← enterHistory_eq]
      dsimp only
      rw [if_pos ((passesOrder_iff _ _).mpr horder), hx]
      rfl
    have hport : (setArrived x (s.withPort p)).port = p := setArrived_port x _
    refine ⟨setArrived x (s.withPort p), by rw [hset, hedge, hdone], hport.trans hp, fun h => ?_, fun hr hlen => ?_⟩
    · rw [hport]; exact setArrived_idle (s := s.withPort p) h x
    · rw [hport]
      intro bracketed
      have hbracketed : bracketed = s.assembler.queue.map (takeBracket p.history x) := rfl
      rw [hbracketed, setArrived_field (s := s.withPort p) hr]
      exact closeComplete_releases _ (s.withPort p) hr (by rwa [List.length_map])

end Sys2Proof.Epochs

/-! Holds (R107): the head that closes with what it holds, and what its release leaves. -/

namespace Sys2Proof.Holds

open Sys2Proof.Machine
open Sys2Proof.Arrivals (releaseFrom_of_open)
open Sys2Proof.Answers (roomMade_obsRoom)
open Sys2Proof.StormJudgement (setOwnStorm_of_eq setOwnStorm_of_ne offerFlag_eq)
open Sys2Proof.Keeping (closeAndRelease_queue)

/-! ## What releases leave -/

/-- The items that no release touches. -/
def Untouched (s t : State) : Prop :=
  t.clock = s.clock ∧ t.engine = s.engine ∧ t.port = s.port ∧ t.query = s.query ∧ t.straps = s.straps ∧
    t.restart = s.restart ∧ t.pins = s.pins ∧ t.due = s.due ∧ t.pending = s.pending ∧
    t.store.active = s.store.active ∧ t.store.activeEdition = s.store.activeEdition ∧
    t.store.pendingSet = s.store.pendingSet ∧ t.presence.peers = s.presence.peers

theorem Untouched.refl (s : State) : Untouched s s := ⟨rfl, rfl, rfl, rfl, rfl, rfl, rfl, rfl, rfl, rfl, rfl, rfl, rfl⟩

theorem Untouched.trans {s t u : State} (h : Untouched s t) (h' : Untouched t u) : Untouched s u := by
  obtain ⟨a1, a2, a3, a4, a5, a6, a7, a8, a9, a10, a11, a12, a13⟩ := h
  obtain ⟨b1, b2, b3, b4, b5, b6, b7, b8, b9, b10, b11, b12, b13⟩ := h'
  exact ⟨b1.trans a1, b2.trans a2, b3.trans a3, b4.trans a4, b5.trans a5, b6.trans a6, b7.trans a7, b8.trans a8,
    b9.trans a9, b10.trans a10, b11.trans a11, b12.trans a12, b13.trans a13⟩

theorem setOwnStorm_peers (b : Bool) (s : State) : (setOwnStorm b s).presence.peers = s.presence.peers := by
  by_cases h : s.presence.own.storm = b
  · rw [setOwnStorm_of_eq h]
  · rw [setOwnStorm_of_ne h, offerFlag_eq]; rfl

theorem stormRecord_peers (slots : List (Option Int)) (s : State) :
    (stormRecord slots s).presence.peers = s.presence.peers := by
  unfold stormRecord
  split
  · rfl
  · dsimp only
    split
    · rfl
    · split
      · rfl
      · unfold handStorm
        split
        · exact setOwnStorm_peers _ _
        · rfl

theorem stormAt_peers (e : Entry) (c : Closed) (s : State) : (stormAt e c s).presence.peers = s.presence.peers := by
  unfold stormAt
  split
  · exact stormRecord_peers _ s
  · rfl

theorem releaseOne_untouched {s : State} (hr : s.straps.role = .vector ∨ s.straps.role = .scalar) (e : Entry) (c : Closed)
    (rest : List Entry) :
    Untouched s (releaseOne e c rest s) ∧ (releaseOne e c rest s).ring.producer = s.ring.producer + 1#16 := by
  rw [releaseOne_spec e c rest s hr]
  exact ⟨⟨rfl, rfl, rfl, rfl, rfl, rfl, rfl, rfl, rfl, rfl, rfl, rfl, stormAt_peers e c s⟩, rfl⟩

/-- Each release advances P by one and leaves the rest untouched. -/
theorem releaseFrom_untouched : ∀ (q : List Entry) {s : State}, s.straps.role = .vector ∨ s.straps.role = .scalar →
    Untouched s (releaseFrom q s) ∧
      (releaseFrom q s).ring.producer =
        s.ring.producer + BitVec.ofNat 16 (q.takeWhile fun e => e.closed.isSome).length
  | [], s, _ => ⟨.refl s, (BitVec.add_zero _).symm⟩
  | e :: rest, s, hr => by
    rw [releaseFrom]
    cases hc : e.closed with
    | none => exact ⟨.refl s, by simp [hc]⟩
    | some c =>
      obtain ⟨hone, hproducer⟩ := releaseOne_untouched hr e c rest
      obtain ⟨-, -, -, -, hstraps, -⟩ := hone
      obtain ⟨hrest, hadvance⟩ := releaseFrom_untouched rest (s := releaseOne e c rest s) (by rw [hstraps]; exact hr)
      refine ⟨(releaseOne_untouched hr e c rest).1.trans hrest, ?_⟩
      rw [hadvance, hproducer, List.takeWhile_cons_of_pos (by simp [hc]), List.length_cons, Nat.add_comm, BitVec.ofNat_add,
        BitVec.add_assoc]

/-- A closed head with an open entry behind it is released alone. -/
theorem releaseFrom_one {e : Entry} {c : Closed} {rest : List Entry} (hc : e.closed = some c)
    (hopen : ∀ y, rest.head? = some y → y.closed = none) (s : State) :
    releaseFrom (e :: rest) s = releaseOne e c rest s := by
  simp only [releaseFrom, hc, releaseFrom_of_open hopen]

/-! ## HOLD_EXPIRY -/

theorem holdOver_none {now : HutTime} {q : List Entry} (h : ∀ x ∈ q, x.closed = none → now.diff x.instant < 3000000) :
    holdOver now q = none := by
  have hlimit : holdTicks = 3000000 := rfl
  rw [holdOver, Option.map_eq_none_iff, List.find?_eq_none]
  intro x hx hover
  rw [Bool.and_eq_true, decide_eq_true_iff, decide_eq_true_iff, hlimit] at hover
  have hyoung := h x hx hover.1
  omega

theorem holdOver_head {now : HutTime} {e : Entry} (hopen : e.closed = none) (h : 3000000 ≤ now.diff e.instant) (rest : List Entry) :
    holdOver now (e :: rest) = some e.instant := by
  have hlimit : holdTicks = 3000000 := rfl
  rw [holdOver, List.find?_cons_of_pos (by simp [hopen, hlimit, h])]; rfl

/-- A head that alone has its instant closes alone. -/
theorem head_closed {s : State} (hr : s.straps.role = .vector ∨ s.straps.role = .scalar) {e : Entry} {rest : List Entry}
    (hopen : e.closed = none) (halone : ∀ x ∈ rest, x.instant ≠ e.instant) (cause : CloseCause) :
    ((e :: rest).map fun x => if decide (x.instant = e.instant) then closeEntry s cause x else x) =
      { e with closed := some (closeField s.straps.role s.query (s.store.setFor e.edition) e cause) } :: rest := by
  have hrest : (rest.map fun x => if decide (x.instant = e.instant) then closeEntry s cause x else x) = rest := by
    conv_rhs => rw [← List.map_id rest]
    exact List.map_congr_left fun x hx => if_neg (by simpa using halone x hx)
  rw [List.map_cons, hrest, if_pos (by simp), closeEntry_eq s hr, closedNow, if_pos hopen]

/-- The storm detector's judgment of a record does not hang on the queue or the ring's write. -/
theorem judged_eq (slots : List (Option Int)) (s : State) (a : Assembler) (ha : a.storm = s.assembler.storm) (c : RecordContent) :
    let judged := stormRecord slots (s.withAssembler a)
    let judged' := stormRecord slots (ringWrite c s)
    judged.presence = judged'.presence ∧ judged.assembler.storm = judged'.assembler.storm ∧
      judged.line.flagSlot = judged'.line.flagSlot ∧ judged.line.activity = judged'.line.activity := by
  have hqueue : SameStorm s (s.withAssembler a) := ⟨rfl, ha, rfl, rfl, rfl⟩
  have hring : SameStorm s (ringWrite c s) := ⟨rfl, rfl, rfl, rfl, rfl⟩
  obtain ⟨hp, hd, hl, -⟩ := hqueue.stormRecord slots
  obtain ⟨hp', hd', hl', -⟩ := hring.stormRecord slots
  refine ⟨hp.trans hp'.symm, hd.trans hd'.symm, ?_, ?_⟩
  · rw [hl, hl']
  · rw [hl, hl']

/-- The outgoing set outlives the release of one entry unless it was the last of its edition. -/
theorem outgoingAfter_singleton {e : Entry} {c : Closed} {rest : List Entry} {o : OutgoingSet} :
    (e.edition = o.edition → (∀ y ∈ rest, y.edition ≠ o.edition) → outgoingAfter [(e, c)] rest (some o) = none) ∧
      (e.edition ≠ o.edition ∨ (∃ y ∈ rest, y.edition = o.edition) → outgoingAfter [(e, c)] rest (some o) = some o) := by
  refine ⟨fun he hrest => ?_, fun h => ?_⟩
  · rw [outgoingAfter, Option.filter_some, if_neg]
    simpa [he] using hrest
  · rw [outgoingAfter, Option.filter_some, if_pos]
    rcases h with h | ⟨y, hy, heq⟩
    · simp [h]
    · simp only [Bool.not_eq_true', Bool.and_eq_false_iff]
      exact .inr (List.all_eq_false.mpr ⟨y, hy, by simp [heq]⟩)

/-- Settles O37. -/
theorem holdExpiryClosesTheHead : Obligations.HoldExpiryClosesTheHead := by
  intro s e rest hrun hr hqueue hopen
  have hexec : exec .holdExpiry s = .next (expireHold s) := rfl
  refine ⟨fun he hrest => ?_, fun hover halone => ?_⟩
  · rw [hexec, expireHold, if_pos hrun, hqueue, holdOver_none]
    intro x hx hc
    rcases List.mem_cons.mp hx with rfl | hx
    · exact he
    · exact hrest x hx hc
  · intro k x
    have hmap := head_closed hr hopen halone .hold
    have hexpire : expireHold s = closeAndRelease (fun x => decide (x.instant = e.instant)) .hold s := by
      rw [expireHold, if_pos hrun, hqueue, holdOver_head hopen hover]
    have hreleased : expireHold s =
        releaseFrom ({ e with closed := some k } :: rest)
          (s.withAssembler { s.assembler with queue := { e with closed := some k } :: rest }) := by
      rw [hexpire, closeAndRelease, hqueue, hmap]
    obtain ⟨huntouched, hproducer⟩ := releaseFrom_untouched ({ e with closed := some k } :: rest)
      (s := s.withAssembler { s.assembler with queue := { e with closed := some k } :: rest }) hr
    rw [← hreleased] at huntouched hproducer
    refine ⟨expireHold s, hexec, fun hlen => ?_, roomMade_obsRoom, ?_, ?_, fun hhead => ?_, huntouched⟩
    · rw [hreleased]
      exact releaseFrom_releases _ s hr (by rw [hqueue] at hlen; exact hlen)
    · have hq := (closeAndRelease_queue (fun x => decide (x.instant = e.instant)) .hold s).1
      rw [hexpire, hq, hqueue, hmap]; rfl
    · rw [hproducer, List.takeWhile_cons_of_pos rfl, List.length_cons, Nat.add_comm, BitVec.ofNat_add, BitVec.add_assoc]; rfl
    · have hfirst : ∀ y, rest.head? = some y → y.closed = none := by
        intro y hy
        rw [hy] at hhead
        exact Option.isNone_iff_eq_none.mp hhead
      have hone : expireHold s =
          releaseOne { e with closed := some k } k rest
            (s.withAssembler { s.assembler with queue := { e with closed := some k } :: rest }) := by
        rw [hreleased]; exact releaseFrom_one rfl hfirst _
      rw [hone, releaseOne_spec { e with closed := some k } k rest
        (s.withAssembler { s.assembler with queue := { e with closed := some k } :: rest }) hr]
      refine ⟨rfl, fun hbase hacc => ?_, fun hbase => ?_, fun hfast => ?_, fun o ho => ?_⟩
      · show obsAfter s.accepts _ _ (if e.kind = .base then _ else none) = _
        rw [if_pos hbase, hacc]; rfl
      · intro judged
        have hat : stormAt { e with closed := some k } k
            (s.withAssembler { s.assembler with queue := { e with closed := some k } :: rest }) =
              stormRecord k.slots (s.withAssembler { s.assembler with queue := { e with closed := some k } :: rest }) := if_pos hbase
        rw [hat]
        exact judged_eq k.slots s { s.assembler with queue := { e with closed := some k } :: rest } rfl x.content
      · have hnot : ¬ e.kind = .base := by rw [hfast]; exact fun h => by cases h
        have hat : stormAt { e with closed := some k } k
            (s.withAssembler { s.assembler with queue := { e with closed := some k } :: rest }) =
              s.withAssembler { s.assembler with queue := { e with closed := some k } :: rest } := if_neg hnot
        rw [hat]
        refine ⟨?_, rfl, rfl⟩
        show ({ s.line with obsQueue := obsAfter s.accepts _ _ (if e.kind = .base then _ else none) } : LineInterface) = _
        rw [if_neg hnot]; rfl
      · show (_ → _ → outgoingAfter [({ e with closed := some k }, k)] rest s.store.outgoing = none) ∧
          (_ → outgoingAfter [({ e with closed := some k }, k)] rest s.store.outgoing = some o)
        rw [ho]
        exact outgoingAfter_singleton (e := { e with closed := some k })

end Sys2Proof.Holds

/-! The close of an entry of role V or S (R109 to R117): its channels, and how a record is filled from them. -/

namespace Sys2Proof.Closes

open Sys2Proof.Machine
open Sys2Proof.StormJudgement (fieldChannels_le_four)

/-! ## A record from its channels -/

theorem slotMembers_getLsbD (marks : List Bool) {i : Nat} (h : i < 4) : (slotMembers marks).getLsbD i = marks.getD i false := by
  unfold slotMembers
  generalize h0 : marks.getD 0 false = a
  generalize h1 : marks.getD 1 false = b
  generalize h2 : marks.getD 2 false = c
  generalize h3 : marks.getD 3 false = d
  have hall : ∀ a b c d : Bool, ∀ i : Fin 4,
      (BitVec.ofNat 4 (a.toNat + 2 * b.toNat + 4 * c.toNat + 8 * d.toNat)).getLsbD i = [a, b, c, d].getD i false := by decide
  rw [hall a b c d ⟨i, h⟩, ← h0, ← h1, ← h2, ← h3]
  interval_cases i <;> rfl

theorem getElem?_map_range {α : Type} (f : Nat → α) (n i : Nat) :
    ((List.range n).map f)[i]? = if i < n then some (f i) else none := by
  by_cases h : i < n
  · rw [if_pos h, List.getElem?_map, List.getElem?_range h]; rfl
  · rw [if_neg h, List.getElem?_eq_none (by simpa using h)]

/-- A channel's mark in a slot member. -/
theorem slotMembers_map_range (f : Nat → Bool) (n : Nat) {i : Nat} (h : i < 4) :
    (slotMembers ((List.range n).map f)).getLsbD i = (decide (i < n) && f i) := by
  rw [slotMembers_getLsbD _ h, List.getD_eq_getElem?_getD, getElem?_map_range]
  by_cases hi : i < n <;> simp [hi]

theorem any_map_range {α : Type} (f : Nat → α) (p : α → Bool) (n : Nat) :
    ((List.range n).map f).any p = true ↔ ∃ i, i < n ∧ p (f i) = true := by
  simp

section Field

variable (role : Role) (q : QueryEngine) (set : CorrectionSet) (e : Entry) (cause : CloseCause)

theorem closeField_slot (i : Nat) :
    (closeField role q set e cause).slots[i]? =
      if i < 4 then
        some (if i < fieldChannels role then (closeChannel q set e.bracket e.instant i).value else none)
      else none := by
  simp only [closeField, getElem?_map_range]
  congr 2
  split <;> rfl

theorem closeField_slots_length : (closeField role q set e cause).slots.length = 4 := by
  simp [closeField]

theorem closeField_gap {i : Nat} (h : i < 4) :
    (closeField role q set e cause).quality.gap.getLsbD i =
      (decide (i < fieldChannels role) && (closeChannel q set e.bracket e.instant i).value.isNone) := by
  simp only [closeField, List.map_map]
  exact slotMembers_map_range _ _ h

theorem closeField_sat {i : Nat} (h : i < 4) :
    (closeField role q set e cause).quality.sat.getLsbD i =
      (decide (i < fieldChannels role) && (closeChannel q set e.bracket e.instant i).sat) := by
  simp only [closeField, List.map_map]
  exact slotMembers_map_range _ _ h

theorem closeField_dfSat :
    (closeField role q set e cause).quality.dfSat = true ↔
      ∃ d, entryDelta role e (closeField role q set e cause).slots = some (d, true) := by
  have hdf : (closeField role q set e cause).quality.dfSat =
      ((entryDelta role e (closeField role q set e cause).slots).map Prod.snd).getD false := rfl
  rw [hdf]
  rcases entryDelta role e (closeField role q set e cause).slots with _ | ⟨d, b⟩
  · simp
  · cases b <;> simp

theorem closeField_span_none (h : e.bracket = none ∨ ∃ b, e.bracket = some ⟨none, b⟩) :
    (closeField role q set e cause).span = 0 := by
  show bracketSpan e.bracket = 0
  rcases h with h | ⟨b, h⟩ <;> rw [h] <;> rfl

theorem closeField_span {a b : SampleSet} (h : e.bracket = some ⟨some a, b⟩) :
    (closeField role q set e cause).span = min 16777215 (b.capture.diff a.capture).toNat := by
  show bracketSpan e.bracket = _
  rw [h]; rfl

end Field

/-! ## A channel -/

theorem saturate_fst (x : Int) : (saturate x).1 = max (-2000000000) (min 2000000000 x) := by
  have hlimit : fieldLimit = 2000000000 := rfl
  unfold saturate
  split_ifs <;> simp only [] <;> omega

theorem saturate_snd (x : Int) : (saturate x).2 = (decide (2000000000 ≤ x) || decide (x ≤ -2000000000)) := by
  have hlimit : fieldLimit = 2000000000 := rfl
  unfold saturate
  rw [hlimit]
  split_ifs with h1 h2
  · simp [h1]
  · simp [h2]
  · simp [h1, h2]

section Choice

variable (q : QueryEngine) (set : CorrectionSet) {b : ChannelBase} (a : SampleSet) (e : HutTime)

theorem chooseTemp_notNeeded (h : b.source = .none ∨ b.pointCount = 0) : chooseTemp q set b a e = .notNeeded := if_pos h

theorem chooseTemp_localTS (h : b.source = .localTS) (hcount : b.pointCount ≠ 0) : chooseTemp q set b a e = localTemp a 0 := by
  rw [chooseTemp, if_neg (by rw [h]; simpa using hcount), h]

theorem chooseTemp_localTE (h : b.source = .localTE) (hcount : b.pointCount ≠ 0) : chooseTemp q set b a e = localTemp a 1 := by
  rw [chooseTemp, if_neg (by rw [h]; simpa using hcount), h]

theorem chooseTemp_peer (h : b.source = .peer) (hcount : b.pointCount ≠ 0) :
    chooseTemp q set b a e = peerTemp q set.header b e := by
  rw [chooseTemp, if_neg (by rw [h]; simpa using hcount), h]

end Choice

theorem localTemp_some {a : SampleSet} {i : Nat} {t : Int} (h : a.temps.getD i none = some t) : localTemp a i = .found t false := by
  rw [localTemp, h]

theorem localTemp_none {a : SampleSet} {i : Nat} (h : a.temps.getD i none = none) : localTemp a i = .missing := by
  rw [localTemp, h]

theorem peerTemp_unheld {q : QueryEngine} {b : ChannelBase} (h : q.heldTemps b.station = none) (hd : Header) (e : HutTime) :
    peerTemp q hd b e = .missing := by
  rw [peerTemp, h]

theorem peerTemp_held {q : QueryEngine} {b : ChannelBase} {held : HeldTemps} (h : q.heldTemps b.station = some held)
    (hprobe : 1 ≤ b.probe) (hd : Header) (e : HutTime) :
    (held.temps.length < b.probe → peerTemp q hd b e = .missing) ∧
      (held.temps[b.probe - 1]? = some (-32768) → peerTemp q hd b e = .missing) ∧
      ∀ t, held.temps[b.probe - 1]? = some t → t ≠ -32768 →
        peerTemp q hd b e = .found t (decide ((hd.ageLimit : Int) * 10000000 < e.diff held.arrival)) := by
  have hzero : ¬ b.probe = 0 := by omega
  refine ⟨fun hshort => ?_, fun hno => ?_, fun t ht hvalid => ?_⟩
  · rw [peerTemp, h]; dsimp only; rw [if_neg hzero, List.getElem?_eq_none (by omega)]
  · rw [peerTemp, h]; dsimp only; rw [if_neg hzero, hno]; rfl
  · rw [peerTemp, h]; dsimp only; rw [if_neg hzero, ht]; exact if_neg hvalid

/-- A channel that has a value: held within its bound, its SAT mark with the words' and its temperature members. -/
def held (full stale missing uncorrected : Bool) (x : Int) : ChannelClose :=
  ⟨some (saturate x).1, full || (saturate x).2, stale, missing, uncorrected⟩

theorem finishChannel_eq (q : QueryEngine) (set : CorrectionSet) (ch : Channel) (a b : SampleSet) (e : HutTime) (va vb : Int)
    (full : Bool) :
    let f := divRound (interpolate va vb a.capture b.capture e * (ch.base.gain : Int)) 65536
    (chooseTemp q set ch.base a e = .notNeeded → finishChannel q set ch a b e va vb full = held full false false true f) ∧
      (chooseTemp q set ch.base a e = .missing → finishChannel q set ch a b e va vb full = held full false true false f) ∧
      ∀ t stale, chooseTemp q set ch.base a e = .found t stale →
        finishChannel q set ch a b e va vb full = held full stale false false (correct ch f t) := by
  refine ⟨fun h => ?_, fun h => ?_, fun t stale h => ?_⟩ <;> simp only [finishChannel, h] <;> rfl

/-- Whatever temperature is chosen, the channel has a value. -/
theorem finishChannel_held (q : QueryEngine) (set : CorrectionSet) (ch : Channel) (a b : SampleSet) (e : HutTime) (va vb : Int)
    (full : Bool) :
    ∃ stale missing uncorrected x, finishChannel q set ch a b e va vb full = held full stale missing uncorrected x := by
  obtain ⟨hnot, hmissing, hfound⟩ := finishChannel_eq q set ch a b e va vb full
  cases h : chooseTemp q set ch.base a e with
  | notNeeded => exact ⟨_, _, _, _, hnot h⟩
  | missing => exact ⟨_, _, _, _, hmissing h⟩
  | found t stale => exact ⟨_, _, _, _, hfound t stale h⟩

theorem closeChannel_gap {a b : SampleSet} {i : Nat}
    (h : a.fields.getD i .invalid = .invalid ∨ b.fields.getD i .invalid = .invalid ∨ 2500000 < b.capture.diff a.capture)
    (q : QueryEngine) (set : CorrectionSet) (e : HutTime) : closeChannel q set (some ⟨some a, b⟩) e i = .gap := by
  have hlimit : gapTicks = 2500000 := rfl
  unfold closeChannel
  dsimp only
  split
  · next va vb ha hb =>
    rcases h with h | h | h
    · rw [h] at ha; cases ha
    · rw [h] at hb; cases hb
    · rw [if_pos (by omega)]
  · rfl

theorem closeChannel_of_values {a b : SampleSet} {i : Nat} {va vb : Int} {set : CorrectionSet} {ch : Channel}
    (ha : (a.fields.getD i .invalid).value = some va) (hb : (b.fields.getD i .invalid).value = some vb)
    (hspan : b.capture.diff a.capture ≤ 2500000) (hch : set.channels[i]? = some ch) (q : QueryEngine) (e : HutTime) :
    closeChannel q set (some ⟨some a, b⟩) e i =
      finishChannel q set ch a b e va vb
        ((a.fields.getD i .invalid).isFullScale || (b.fields.getD i .invalid).isFullScale) := by
  have hlimit : gapTicks = 2500000 := rfl
  simp only [closeChannel, ha, hb, hch]
  exact if_neg (by omega)

/-- Settles O40. -/
theorem fieldChannelAtClose : Obligations.FieldChannelAtClose := by
  refine ⟨fun role q set e cause => ?_, fun q set e i => ⟨rfl, fun _ => rfl, fun a b => ⟨fun h => closeChannel_gap h q set e, ?_⟩⟩⟩
  · have hfour := fieldChannels_le_four role
    refine ⟨rfl, closeField_slots_length .., fun i hi => ?_, fun i hi hi4 => ?_, fun i hi => closeField_gap _ _ _ _ _ hi,
      fun i hi => closeField_sat _ _ _ _ _ hi, any_map_range _ _ _, any_map_range _ _ _, any_map_range _ _ _, rfl, rfl, rfl,
      closeField_dfSat .., closeField_span_none _ _ _ _ _, fun a b => closeField_span _ _ _ _ _⟩
    · rw [closeField_slot, if_pos (by omega), if_pos hi]
    · rw [closeField_slot, if_pos hi4, if_neg (by omega)]
  · intro va vb ch ha hb hspan hch
    have hout := closeChannel_of_values ha hb hspan hch q e
    obtain ⟨hnot, hmissing, hfound⟩ := finishChannel_eq q set ch a b e va vb
      ((a.fields.getD i .invalid).isFullScale || (b.fields.getD i .invalid).isFullScale)
    obtain ⟨st, mi, un, x, hheld⟩ := finishChannel_held q set ch a b e va vb
      ((a.fields.getD i .invalid).isFullScale || (b.fields.getD i .invalid).isFullScale)
    rw [← hout] at hnot hmissing hheld
    simp only [← hout] at hfound
    refine ⟨max (-2000000000) (min 2000000000 x), ?_, by omega, by omega, fun hbound => ?_, fun hfull => ?_, fun hnone => ⟨?_, ?_⟩,
      fun hpeer hcount hunheld => ?_, ?_⟩
    · rw [hheld, ← saturate_fst]; rfl
    · rw [hheld]
      show (_ || (saturate x).2) = true
      simp only [saturate_snd, Bool.or_eq_true, decide_eq_true_iff]
      omega
    · rw [hheld]
      show (_ || (saturate x).2) = true
      rw [Bool.or_eq_true, Bool.or_eq_true]
      exact .inl hfull
    · rw [hnot (chooseTemp_notNeeded q set a e hnone)]; rfl
    · have hsame := congrArg ChannelClose.value (hheld.symm.trans (hnot (chooseTemp_notNeeded q set a e hnone)))
      rw [← saturate_fst, ← saturate_fst]
      exact Option.some.inj hsame
    · rw [hmissing ((chooseTemp_peer q set a e hpeer hcount).trans (peerTemp_unheld hunheld _ _))]; rfl
    · intro out f points full plain missing corrected
      have hplain {stale mi un : Bool} {x : Int} (h : out = held full stale mi un x) : plain x := by
        refine ⟨?_, ?_⟩
        · rw [h, ← saturate_fst]; rfl
        · rw [h, Bool.or_assoc, ← saturate_snd]; rfl
      have hno (h : chooseTemp q set ch.base a e = .missing) : missing := by
        refine ⟨hplain (hmissing h), ?_⟩
        rw [show out = _ from hmissing h]
        exact ⟨rfl, rfl, rfl⟩
      have hyes {t : Int} {stale : Bool} (h : chooseTemp q set ch.base a e = .found t stale) : corrected t stale := by
        refine ⟨hplain (hfound t stale h), ?_⟩
        rw [show out = _ from hfound t stale h]
        exact ⟨rfl, rfl, rfl⟩
      refine ⟨fun hnone => ?_, fun hcount => ⟨fun hsrc => ?_, fun hsrc => ?_, fun hsrc => ?_⟩⟩
      · have hplainly := hnot (chooseTemp_notNeeded q set a e hnone)
        refine ⟨hplain hplainly, ?_⟩
        rw [show out = _ from hplainly]
        exact ⟨rfl, rfl, rfl⟩
      · have hchoose := chooseTemp_localTS q set a e hsrc hcount
        exact ⟨fun t ht => hyes (hchoose.trans (localTemp_some ht)), fun ht => hno (hchoose.trans (localTemp_none ht))⟩
      · have hchoose := chooseTemp_localTE q set a e hsrc hcount
        exact ⟨fun t ht => hyes (hchoose.trans (localTemp_some ht)), fun ht => hno (hchoose.trans (localTemp_none ht))⟩
      · have hchoose := chooseTemp_peer q set a e hsrc hcount
        refine ⟨fun hun => hno (hchoose.trans (peerTemp_unheld hun _ _)), fun list hlist hprobe => ?_⟩
        obtain ⟨hshort, hinvalid, hvalid⟩ := peerTemp_held hlist hprobe set.header e
        exact ⟨fun h => hno (hchoose.trans (hshort h)), fun h => hno (hchoose.trans (hinvalid h)),
          fun t ht hne => hyes (hchoose.trans (hvalid t ht hne))⟩

end Sys2Proof.Closes

/-! The node's own queries (R128, R129): which aged entries are asked about, under which tags. -/

namespace Sys2Proof.OwnQueries

open Sys2Proof.Machine
open Sys2Proof.Keeping (freeTag_free)

/-- The tag counter after new queries: one past the last of them. -/
def counterAfter (counter : BitVec 4) (new : List PendingQuery) : BitVec 4 :=
  match new.getLast? with
  | some x => x.tag + 1#4
  | none => counter

theorem counterAfter_append (counter : BitVec 4) (new : List PendingQuery) (q : PendingQuery) :
    counterAfter counter (new ++ [q]) = q.tag + 1#4 := by
  rw [counterAfter, List.getLast?_concat]

/-- The ASK that a query sends. -/
def askOf (q : PendingQuery) : OwnAsk := ⟨q.target, q.tag⟩

/-- The state once new queries are pending, their ASKs queued as far as there is room. -/
def issued (s : State) (new : List PendingQuery) : State :=
  (s.withQuery
      { s.query with queries := s.query.queries ++ new, tagCounter := counterAfter s.query.tagCounter new }).withLine
    { s.line with askQueue := s.line.askQueue ++ (new.map askOf).take (4 - s.line.askQueue.length) }

theorem issued_nil (s : State) : issued s [] = s := by
  have hquery : ({ s.query with queries := s.query.queries ++ [], tagCounter := counterAfter s.query.tagCounter [] } : QueryEngine) =
      s.query := by rw [List.append_nil]; rfl
  have hline : ({ s.line with askQueue := s.line.askQueue ++ (List.map askOf []).take (4 - s.line.askQueue.length) } :
      LineInterface) = s.line := by rw [List.map_nil, List.take_nil, List.append_nil]
  rw [issued, hquery, hline]; rfl

/-- The entry of a number is eligible: aged, of a PRESENT station, without a query, the node able to ask. -/
def eligible (s : State) (p : Subscription × Nat) : Bool :=
  isAged s.store.active.header.ageLimit s.clock.time p.1 && !(s.query.queries.any fun q => decide (q.index = p.2)) &&
    decide ((s.presence.peer p.1.station).presence = .present) && s.speaks

/-- New queries so far stand for earlier entries, so an entry is asked about if it was eligible and a place is free. -/
theorem shouldAsk_issued {s : State} {new : List PendingQuery} {index : Nat} (hnew : ∀ q ∈ new, q.index < index)
    (e : Subscription) :
    shouldAsk index e (issued s new) =
      (eligible s (e, index) && decide (s.query.queries.length + new.length < 4)) := by
  have hany : ((s.query.queries ++ new).any fun q => decide (q.index = index)) =
      s.query.queries.any fun q => decide (q.index = index) := by
    have hnone : (new.any fun q => decide (q.index = index)) = false :=
      List.any_eq_false.mpr fun q hq => by have := hnew q hq; simp; omega
    rw [List.any_append, hnone, Bool.or_false]
  show (isAged s.store.active.header.ageLimit s.clock.time e &&
      !((s.query.queries ++ new).any fun q => decide (q.index = index)) &&
      decide ((s.presence.peer e.station).presence = .present) && s.speaks &&
      decide ((s.query.queries ++ new).length < 4)) = _
  rw [hany, List.length_append]; rfl

/-- The query an eligible entry gets after those issued so far. -/
def nextQuery (s : State) (new : List PendingQuery) (p : Subscription × Nat) : PendingQuery :=
  ⟨freeTag (s.query.queries ++ new) 16 (counterAfter s.query.tagCounter new), p.1.station, p.2, s.clock.time⟩

theorem take_append_singleton {α : Type} (l : List α) (x : α) (n : Nat) :
    (l ++ [x]).take n = if l.length < n then l.take n ++ [x] else l.take n := by
  split
  · rw [List.take_of_length_le (by simp; omega), List.take_of_length_le (by omega)]
  · rw [List.take_append_of_le_length (by omega)]

/-- The ASK of a query joins the queue while it has room. -/
theorem issueQuery_issued {s : State} (hspeaks : s.speaks = true) (new : List PendingQuery) (index : Nat) (e : Subscription) :
    issueQuery index e (issued s new) = issued s (new ++ [nextQuery s new (e, index)]) := by
  have haccepts : s.accepts = true :=
    decide_eq_true ((of_decide_eq_true hspeaks).elim (fun h => .inr (.inl h)) fun h => .inr (.inr h))
  have hasks : s.line.askQueue ++ ((new ++ [nextQuery s new (e, index)]).map askOf).take (4 - s.line.askQueue.length) =
      if (s.line.askQueue ++ (new.map askOf).take (4 - s.line.askQueue.length)).length < 4 then
        s.line.askQueue ++ (new.map askOf).take (4 - s.line.askQueue.length) ++ [askOf (nextQuery s new (e, index))]
      else s.line.askQueue ++ (new.map askOf).take (4 - s.line.askQueue.length) := by
    have hroom : (s.line.askQueue ++ (new.map askOf).take (4 - s.line.askQueue.length)).length < 4 ↔
        (new.map askOf).length < 4 - s.line.askQueue.length := by
      rw [List.length_append, List.length_take]; omega
    rw [List.map_append, List.map_singleton, take_append_singleton, if_congr hroom rfl rfl]
    split
    · rw [List.append_assoc]
    · rfl
  have hqueries : s.query.queries ++ (new ++ [nextQuery s new (e, index)]) = s.query.queries ++ new ++ [nextQuery s new (e, index)] :=
    (List.append_assoc ..).symm
  have hissue : issueQuery index e (issued s new) = offerAsk (askOf (nextQuery s new (e, index)))
      ((issued s new).withQuery
        { s.query with
          queries := s.query.queries ++ new ++ [nextQuery s new (e, index)]
          tagCounter := (nextQuery s new (e, index)).tag + 1#4 }) := rfl
  rw [hissue]
  conv_rhs => rw [issued, hasks, hqueries, counterAfter_append]
  split
  · next hroom => exact if_pos ⟨haccepts, hroom⟩
  · next hfull => exact if_neg fun h => hfull h.2

/-- The tags of new queries: each the first that no query pending then carries, from the counter as it stands then. -/
def TagsFollow (s : State) (new : List PendingQuery) : Prop :=
  ∀ i q, new[i]? = some q →
    ∃ d, d < 16 ∧ q.tag = counterAfter s.query.tagCounter (new.take i) + BitVec.ofNat 4 d ∧
      (∀ x ∈ s.query.queries ++ new.take i, x.tag ≠ q.tag) ∧
      ∀ j, j < d → ∃ x ∈ s.query.queries ++ new.take i, x.tag = counterAfter s.query.tagCounter (new.take i) + BitVec.ofNat 4 j

theorem tagsFollow_append {s : State} {new : List PendingQuery} (h : TagsFollow s new)
    (hroom : s.query.queries.length + new.length < 4) (p : Subscription × Nat) : TagsFollow s (new ++ [nextQuery s new p]) := by
  intro i q hi
  rcases Nat.lt_or_ge i new.length with hlt | hge
  · rw [List.getElem?_append_left hlt] at hi
    rw [List.take_append_of_le_length hlt.le]
    exact h i q hi
  · obtain rfl : i = new.length := by
      have := (List.getElem?_eq_some_iff.mp hi).1
      simp at this; omega
    rw [List.getElem?_concat_length, Option.some.injEq] at hi
    subst hi
    rw [List.take_left' rfl]
    obtain ⟨d, hd, htag, hbefore, hfree⟩ := freeTag_free (queries := s.query.queries ++ new) (by rw [List.length_append]; omega)
      (counterAfter s.query.tagCounter new)
    exact ⟨d, hd, htag, hfree, hbefore⟩

/-- What a query is about. -/
def subject (q : PendingQuery) : Station × Nat × HutTime := (q.target, q.index, q.issue)

/-- From `new` queries on, the entries considered get theirs in order, as far as places are free. -/
theorem considerFrom_issued (s : State) : ∀ (l : List Subscription) (index : Nat) (new : List PendingQuery),
    (∀ q ∈ new, q.index < index) → TagsFollow s new →
    ∃ more, considerFrom index l (issued s new) = issued s (new ++ more) ∧ TagsFollow s (new ++ more) ∧
      more.map subject =
        (((l.zipIdx index).filter (eligible s)).take (4 - (s.query.queries.length + new.length))).map
          fun p => (p.1.station, p.2, s.clock.time)
  | [], index, new, _, htags => ⟨[], by rw [List.append_nil]; rfl, by rwa [List.append_nil], by simp⟩
  | e :: rest, index, new, hnew, htags => by
    have hlater : ∀ q ∈ new, q.index < index + 1 := fun q hq => (hnew q hq).trans (Nat.lt_succ_self index)
    rw [considerFrom, shouldAsk_issued hnew]
    by_cases hask : eligible s (e, index) = true ∧ s.query.queries.length + new.length < 4
    · obtain ⟨helig, hroom⟩ := hask
      have hspeaks : s.speaks = true := (Bool.and_eq_true_iff.mp helig).2
      rw [if_pos (by simp [helig, hroom]), issueQuery_issued hspeaks]
      obtain ⟨more, hmore, htags', hsubjects⟩ := considerFrom_issued s rest (index + 1) (new ++ [nextQuery s new (e, index)])
        (fun q hq => (List.mem_append.mp hq).elim (hlater q) fun h => by rw [List.mem_singleton.mp h]; exact Nat.lt_succ_self index)
        (tagsFollow_append htags hroom (e, index))
      refine ⟨nextQuery s new (e, index) :: more, by rw [hmore, List.append_assoc]; rfl, by rwa [List.append_assoc] at htags', ?_⟩
      obtain ⟨n, hn⟩ : ∃ n, 4 - (s.query.queries.length + new.length) = n + 1 := ⟨3 - (s.query.queries.length + new.length), by omega⟩
      rw [List.zipIdx_cons, List.filter_cons_of_pos helig, hn, List.take_succ_cons, List.map_cons, List.map_cons, hsubjects,
        List.length_append, show 4 - (s.query.queries.length + (new.length + [nextQuery s new (e, index)].length)) = n by
          rw [List.length_singleton]; omega]
      rfl
    · rw [if_neg (by simpa using hask)]
      obtain ⟨more, hmore, htags', hsubjects⟩ := considerFrom_issued s rest (index + 1) new hlater htags
      refine ⟨more, hmore, htags', hsubjects.trans ?_⟩
      by_cases helig : eligible s (e, index) = true
      · have hfull : 4 - (s.query.queries.length + new.length) = 0 := by
          have hfull : ¬ s.query.queries.length + new.length < 4 := fun h => hask ⟨helig, h⟩
          omega
        rw [hfull, List.take_zero, List.take_zero]
      · rw [List.zipIdx_cons, List.filter_cons_of_neg helig]

/-- Settles O43. -/
theorem agedSubscriptionsAreAsked : Obligations.AgedSubscriptionsAreAsked := by
  intro s hrun hdue hinv aged elig
  obtain ⟨new, hnew, htags, hsubjects⟩ := considerFrom_issued (s.withDue { s.due with consider := false }) s.query.subs 1 []
    (fun q hq => (List.not_mem_nil hq).elim) (fun i q hi => by simp at hi)
  rw [issued_nil, List.nil_append] at hnew
  rw [List.nil_append] at htags
  have haged (e : Subscription) : aged e = isAged s.store.active.header.ageLimit s.clock.time e := by
    obtain ⟨station, (_ | held) | obs⟩ := e <;> rfl
  have helig : elig = (s.query.subs.zipIdx 1).filter (eligible s) :=
    congrArg (fun f => List.filter f (s.query.subs.zipIdx 1)) (funext fun p => by rw [haged p.1]; rfl)
  have hexec : exec .queryConsideration s =
      .next (considerFrom 1 s.query.subs (s.withDue { s.due with consider := false })) := congrArg _ (if_pos ⟨hrun, hdue⟩)
  refine ⟨issued (s.withDue { s.due with consider := false }) new, new, by rw [hexec, hnew], rfl, ?_, htags, rfl⟩
  rw [helig]
  exact hsubjects

end Sys2Proof.OwnQueries

/-! Promotions (R94, R95, R119, R124): the sets change places, and what follows from it. -/

namespace Sys2Proof.Promotions

open Sys2Proof.Machine
open Sys2Proof.StormJudgement (setOwnStorm_of_eq setOwnStorm_of_ne offerFlag_eq)
open Sys2Proof.RingWrite (ringWrite_recordAt_producer)
open Sys2Proof.Holds (setOwnStorm_peers)

/-! ## The subscriptions' rebuild -/

/-- Where a pending query's entry stands in the new table. -/
def placeIn (old new : List Subscription) (q : PendingQuery) : Option Nat :=
  (old[q.index - 1]?).bind fun e => new.findIdx? fun o => decide (o.station = e.station) && o.isTemp == e.isTemp

theorem newIndex_eq (old new : List Subscription) (q : PendingQuery) : newIndex old new q = (placeIn old new q).map (· + 1) := by
  unfold newIndex placeIn
  cases old[q.index - 1]? <;> rfl

/-- The queries whose entries recur, under their new numbers. -/
theorem queries_renumbered (old new : List Subscription) (l : List PendingQuery) :
    ((l.filter fun q => !(newIndex old new q).isNone).map fun q => { q with index := (newIndex old new q).getD q.index }) =
      l.filterMap fun q => (placeIn old new q).map fun i => { q with index := i + 1 } := by
  induction l with
  | nil => rfl
  | cons q rest ih =>
    have hq := newIndex_eq old new q
    rw [List.filterMap_cons, ← ih]
    cases hplace : placeIn old new q with
    | none =>
      rw [hplace, Option.map_none] at hq
      rw [List.filter_cons_of_neg (by simp [hq])]; rfl
    | some i =>
      rw [hplace, Option.map_some] at hq
      rw [List.filter_cons_of_pos (by simp [hq]), List.map_cons, hq]; rfl

/-- The ASK is that of a pending query whose entry is dropped. -/
def droppedAsk (old new : List Subscription) (queries : List PendingQuery) (a : OwnAsk) : Bool :=
  queries.any fun q => (placeIn old new q).isNone && decide (q.target = a.target ∧ q.tag = a.tag)

theorem rebuildSubs_eq (set : CorrectionSet) (s : State) : ∃ asks,
    rebuildSubs set s =
      (s.withQuery
        { s.query with
          subs := (buildSubs set).map (carryOver s.query.subs)
          queries := s.query.queries.filterMap fun q =>
            (placeIn s.query.subs (buildSubs set) q).map fun i => { q with index := i + 1 } }).withLine
        { s.line with askQueue := asks } ∧
    (s.line.activity.inFlight .ask = false →
      asks = s.line.askQueue.filter fun a => !droppedAsk s.query.subs (buildSubs set) s.query.queries a) ∧
    (s.line.activity.inFlight .ask = true →
      asks = s.line.askQueue.take 1 ++
        (s.line.askQueue.drop 1).filter fun a => !droppedAsk s.query.subs (buildSubs set) s.query.queries a) := by
  obtain ⟨asks, hretire, hstill, hflight⟩ :=
    Presence.queryTimesOut.2 s fun q => (newIndex s.query.subs (buildSubs set) q).isNone
  have hdropped (a : OwnAsk) :
      (s.query.queries.any fun q =>
        (newIndex s.query.subs (buildSubs set) q).isNone && decide (q.target = a.target ∧ q.tag = a.tag)) =
        droppedAsk s.query.subs (buildSubs set) s.query.queries a := by
    simp only [droppedAsk, newIndex_eq, Option.isNone_map]
  simp only [hdropped] at hstill hflight
  refine ⟨asks, ?_, hstill, hflight⟩
  rw [rebuildSubs, ← queries_renumbered]
  dsimp only
  rw [hretire]; rfl

/-! ## The own STORM -/

/-- The line with the own set offered as a FLAG, where the standing accepts packets. -/
def flagOffered (accepts : Bool) (w : WireSet) (l : LineInterface) : LineInterface :=
  if accepts then { l with flagSlot := some w, activity := l.activity.replacedAt .flag } else l

theorem flagOffered_frame (accepts : Bool) (w : WireSet) (l : LineInterface) :
    flagOffered accepts w l =
      { l with flagSlot := (flagOffered accepts w l).flagSlot, activity := (flagOffered accepts w l).activity } := by
  cases accepts <;> rfl

theorem flagOffered_askQueue (accepts : Bool) (w : WireSet) (l : LineInterface) (asks : List OwnAsk) :
    flagOffered accepts w { l with askQueue := asks } = { flagOffered accepts w l with askQueue := asks } := by
  cases accepts <;> rfl

/-- The presence block with a new own STORM. -/
def stormSet (b : Bool) (p : PresenceBlock) : PresenceBlock :=
  { p with own := { p.own with storm := b }, wireOr := hutOr { p.own with storm := b } p.peers }

theorem setOwnStorm_changed {b : Bool} {s : State} (h : s.presence.own.storm ≠ b) :
    setOwnStorm b s =
      (s.withPresence (stormSet b s.presence)).withLine
        (flagOffered s.accepts { s.presence.own with storm := b } s.line) := by
  rw [setOwnStorm_of_ne h, offerFlag_eq]; rfl

theorem setOwnStorm_frame (b : Bool) (s : State) :
    setOwnStorm b s =
      (s.withPresence (setOwnStorm b s).presence).withLine
        { s.line with flagSlot := (setOwnStorm b s).line.flagSlot, activity := (setOwnStorm b s).line.activity } := by
  by_cases h : s.presence.own.storm = b
  · rw [setOwnStorm_of_eq h]; rfl
  · rw [setOwnStorm_changed h]
    exact congrArg (State.withLine _) (flagOffered_frame ..)

theorem setOwnStorm_own (b : Bool) (s : State) : (setOwnStorm b s).presence.own = { s.presence.own with storm := b } := by
  by_cases h : s.presence.own.storm = b
  · rw [setOwnStorm_of_eq h, ← h]
  · rw [setOwnStorm_changed h]; rfl

/-- The own STORM's change does not look at the ASK queue. -/
theorem setOwnStorm_askQueue {s t : State} {asks : List OwnAsk} (hp : t.presence = s.presence)
    (hl : t.line = { s.line with askQueue := asks }) (b : Bool) :
    (setOwnStorm b t).presence = (setOwnStorm b s).presence ∧
      (setOwnStorm b t).line = { (setOwnStorm b s).line with askQueue := asks } := by
  by_cases h : s.presence.own.storm = b
  · rw [setOwnStorm_of_eq h, setOwnStorm_of_eq (hp ▸ h)]; exact ⟨hp, hl⟩
  · have hacc : t.accepts = s.accepts := by rw [State.accepts, hl]; rfl
    rw [setOwnStorm_changed h, setOwnStorm_changed (hp ▸ h), hacc, hp, hl]
    exact ⟨rfl, flagOffered_askQueue ..⟩

/-! ## The promotion -/

theorem stormPromotion_of_zero {s : State} (h : s.store.active.header.stormThreshold = 0) :
    stormPromotion s =
      let t := s.withAssembler
        { s.assembler with storm := { s.assembler.storm with asserted := false, onset := 0, quiet := 0 } }
      if s.assembler.storm.asserted then setOwnStorm false t else t := if_pos h

theorem stormPromotion_of_ne {s : State} (h : s.store.active.header.stormThreshold ≠ 0) : stormPromotion s = s := if_neg h

/-- The detector at a promotion writes itself, the presence block, and the line's FLAG slot and activity. -/
theorem stormPromotion_frame (s : State) :
    stormPromotion s =
      ((s.withPresence (stormPromotion s).presence).withLine
        { s.line with
          flagSlot := (stormPromotion s).line.flagSlot, activity := (stormPromotion s).line.activity }).withAssembler
        (stormPromotion s).assembler := by
  by_cases h : s.store.active.header.stormThreshold = 0
  · rw [stormPromotion_of_zero h]
    cases s.assembler.storm.asserted
    · rfl
    · simp only [if_true]
      rw [setOwnStorm_frame]; rfl
  · rw [stormPromotion_of_ne h]; rfl

theorem stormPromotion_peers (s : State) : (stormPromotion s).presence.peers = s.presence.peers := by
  by_cases h : s.store.active.header.stormThreshold = 0
  · rw [stormPromotion_of_zero h]
    cases s.assembler.storm.asserted
    · rfl
    · exact setOwnStorm_peers _ _
  · rw [stormPromotion_of_ne h]

theorem exec_promotion {s : State} {p : PendingSet} (hrun : s.running = true) (hdue : s.due.promote = true)
    (hp : s.store.pendingSet = some p) (hsched : p.scheduled = true) : exec .promotion s = .next (promote p s) := by
  show Host.Outcome.next (takePromotion s) = _
  rw [takePromotion, if_pos ⟨hrun, hdue⟩, hp]
  exact congrArg _ (if_pos hsched)

/-- Settles O50. -/
theorem promotionChangesTheActiveSet : Obligations.PromotionChangesTheActiveSet := by
  intro s p hrun hdue hp hsched place dropped
  obtain ⟨asks, hrebuild, hstill, hflight⟩ := rebuildSubs_eq p.content
    ((s.withDue { s.due with promote := false }).withStore (s.store.promoted s.straps.role p))
  obtain ⟨u, hu⟩ : ∃ u, u = ringWrite (.note s.due.second (.promote p.edition)) (rebuildSubs p.content
    ((s.withDue { s.due with promote := false }).withStore (s.store.promoted s.straps.role p))) := ⟨_, rfl⟩
  have hpromote : promote p s = stormPromotion u := by rw [hu]; rfl
  have hframe := stormPromotion_frame u
  have hpeers := stormPromotion_peers u
  rw [hrebuild] at hu
  have huline : u.line = { s.line with askQueue := asks } := by rw [hu]; rfl
  have hupresence : u.presence = s.presence := by rw [hu]; rfl
  have huassembler : u.assembler = s.assembler := by rw [hu]; rfl
  have hustore : u.store = s.store.promoted s.straps.role p := by rw [hu]; rfl
  have hasks : (stormPromotion u).line.askQueue = asks := by rw [hframe, huline]; rfl
  refine ⟨stormPromotion u, (exec_promotion hrun hdue hp hsched).trans (by rw [hpromote]), ?_⟩
  rw [hasks]
  refine ⟨?_, ?_, ?_, ?_, ?_, ?_, ?_, ?_, ?_, hstill, hflight, fun hthreshold => ?_, fun hthreshold => ?_, ?_⟩
  · rw [hframe]; exact hustore
  · rw [hframe, hu]; rfl
  · rw [hframe, hu]; exact ringWrite_recordAt_producer
  · rw [hframe, hu]; rfl
  · rw [hframe, hu]; rfl
  · rw [hframe, hu]; rfl
  · rw [hframe, hu]; rfl
  · rw [hframe, hu]; rfl
  · rw [hframe, hu]; rfl
  · rw [stormPromotion_of_ne (by rw [hustore]; exact hthreshold)]
    exact ⟨huassembler, hupresence, huline⟩
  · have hzero := stormPromotion_of_zero (s := u) (by rw [hustore]; exact hthreshold)
    rw [huassembler] at hzero
    refine ⟨?_, fun hquiet => ?_, fun hasserted => ?_⟩
    · rw [hzero]
      cases s.assembler.storm.asserted
      · rfl
      · exact congrArg State.assembler (setOwnStorm_frame false _)
    · rw [hzero, hquiet]; exact ⟨hupresence, huline⟩
    · rw [hzero, hasserted]
      obtain ⟨hpres, hline⟩ := setOwnStorm_askQueue (s := s) (t := u.withAssembler
        { s.assembler with storm := { s.assembler.storm with asserted := false, onset := 0, quiet := 0 } })
        hupresence huline false
      exact ⟨(congrArg PresenceBlock.own hpres).trans (setOwnStorm_own false s), hpres, hline⟩
  · refine ⟨hpeers.trans (by rw [hupresence]), ?_⟩
    rw [hframe, hu]
    exact ⟨rfl, rfl, rfl, rfl, rfl, rfl, rfl, rfl, rfl, rfl, rfl, rfl, rfl⟩

end Sys2Proof.Promotions

/-! The oscillator edge (R39 to R41): what it counts and what hut time reaches by it. -/

namespace Sys2Proof.Oscillator

open Sys2Proof.Machine

/-! ## Hut time moved by a few ticks -/

theorem ofTicks_mod (n : Nat) : HutTime.ofTicks (n % (2 ^ 32 * 10000000)) = HutTime.ofTicks n := by
  have hticks : ticksPerSecond = 10000000 := rfl
  rw [HutTime.ofTicks, HutTime.ofTicks, hticks]
  congr 1
  · rw [Nat.mod_mul_left_div_self, ← BitVec.toNat_inj, BitVec.toNat_ofNat, BitVec.toNat_ofNat, Nat.mod_mod]
  · exact Nat.mod_mod_of_dvd n (Dvd.intro_left _ rfl)

theorem add_natCast (t : HutTime) (n : Nat) : t.add n = HutTime.ofTicks (t.toTicks + n) := by
  have hticks : ticksPerSecond = 10000000 := rfl
  rw [HutTime.add, ← Int.natCast_add, ← Int.natCast_emod, Int.toNat_natCast, hticks, ofTicks_mod]

theorem add_within {t : HutTime} {n : Nat} (h : t.tick + n < 10000000) : t.add n = ⟨t.sec, t.tick + n⟩ := by
  have hticks : ticksPerSecond = 10000000 := rfl
  have hcount : t.toTicks + n = t.sec.toNat * 10000000 + (t.tick + n) := by rw [HutTime.toTicks, hticks]; omega
  rw [add_natCast, HutTime.ofTicks, hticks, hcount]
  refine congrArg₂ HutTime.mk ?_ ?_
  · rw [← BitVec.toNat_inj, BitVec.toNat_ofNat]
    omega
  · omega

theorem add_over {t : HutTime} {n : Nat} (ht : t.tick < 10000000) (h : 10000000 ≤ t.tick + n) (hn : n ≤ 2) :
    t.add n = ⟨t.sec + 1#32, t.tick + n - 10000000⟩ := by
  have hticks : ticksPerSecond = 10000000 := rfl
  have hcount : t.toTicks + n = (t.sec.toNat + 1) * 10000000 + (t.tick + n - 10000000) := by rw [HutTime.toTicks, hticks]; omega
  rw [add_natCast, HutTime.ofTicks, hticks, hcount]
  refine congrArg₂ HutTime.mk ?_ ?_
  · rw [← BitVec.toNat_inj, BitVec.toNat_ofNat, BitVec.toNat_add, BitVec.toNat_ofNat]
    omega
  · omega

/-! ## What is reached -/

/-- The fast instants become due in this state: blocks running, a role that assembles, STORM cadence. -/
abbrev fastDue (s : State) : Prop := s.running = true ∧ s.straps.role ≠ .clock ∧ s.assembler.cadence = .storm

/-- What is due once hut time has reached `t`. -/
def dueReached (s : State) (t : HutTime) (d : Due) : Due := (reach t false (s.withDue d)).due

/-- What is due once hut time has reached each of the next `n` ticks. -/
def dueAll (s : State) (t : HutTime) : Nat → Due → Due
  | 0, d => d
  | n + 1, d => dueReached s (t.add ((n : Int) + 1)) (dueAll s t n d)

theorem reach_eq (t : HutTime) (s : State) (d : Due) : reach t false (s.withDue d) = s.withDue (dueReached s t d) := by
  unfold dueReached reach
  split
  · rfl
  · split
    · rfl
    · split <;> rfl

theorem reachAll_eq (t : HutTime) (s : State) : ∀ n, reachAll t n s = s.withDue (dueAll s t n s.due)
  | 0 => rfl
  | n + 1 => by rw [reachAll, reachAll_eq t s n, reach_eq]; rfl

theorem isFast_iff (sec : BitVec 32) (tick : Nat) :
    HutTime.isFast ⟨sec, tick⟩ = true ↔ tick ∈ [2000000, 4000000, 6000000, 8000000] := by
  simp [HutTime.isFast]

section Reached

variable {s : State} {sec : BitVec 32} {tick : Nat} (d : Due)

theorem dueReached_held (t : HutTime) (h : s.held = true) : dueReached s t d = d := congrArg State.due (if_pos h)

theorem dueReached_whole (h : s.held = false) : dueReached s ⟨sec, 0⟩ d = s.dueAt ⟨sec, 0⟩ false := by
  have hnot : ¬ (s.withDue d).held = true := fun hh => by rw [show (s.withDue d).held = s.held from rfl, h] at hh; cases hh
  exact congrArg State.due (if_neg hnot)

theorem dueReached_part (hpart : tick ≠ 0) (h : s.held = false) :
    dueReached s ⟨sec, tick⟩ d =
      if tick ∈ [2000000, 4000000, 6000000, 8000000] ∧ fastDue s then { d with fast := some ⟨sec, tick⟩ } else d := by
  have hnot : ¬ (s.withDue d).held = true := fun hh => by rw [show (s.withDue d).held = s.held from rfl, h] at hh; cases hh
  have hwhole : ¬ HutTime.isWhole ⟨sec, tick⟩ = true := fun hw => hpart (of_decide_eq_true hw)
  rw [dueReached, reach, if_neg hnot, if_neg hwhole]
  exact (apply_ite State.due ..).trans (if_congr (and_congr_left' (isFast_iff sec tick)) rfl rfl)

theorem dueReached_fast (hpart : tick ≠ 0) (hfast : tick ∈ [2000000, 4000000, 6000000, 8000000]) (h : fastDue s) :
    dueReached s ⟨sec, tick⟩ d = { d with fast := some ⟨sec, tick⟩ } := by
  have hheld : s.held = false := by
    obtain ⟨hrun, -⟩ := h
    cases hh : s.held
    · rfl
    · rw [State.running, hh] at hrun; cases hrun
  rw [dueReached_part d hpart hheld, if_pos ⟨hfast, h⟩]

theorem dueReached_same (hpart : tick ≠ 0) (h : ¬ (tick ∈ [2000000, 4000000, 6000000, 8000000] ∧ fastDue s)) :
    dueReached s ⟨sec, tick⟩ d = d := by
  cases hheld : s.held with
  | true => exact dueReached_held d _ hheld
  | false => rw [dueReached_part d hpart hheld, if_neg h]

end Reached

section All

variable {s : State} {t : HutTime} (d : Due)

theorem dueAll_held (h : s.held = true) : ∀ n, dueAll s t n d = d
  | 0 => rfl
  | n + 1 => by rw [dueAll, dueReached_held _ _ h, dueAll_held h n]

/-- Short of the whole second and of a fast instant, nothing becomes due. -/
theorem dueAll_same : ∀ {n : Nat}, t.tick + n < 10000000 →
    (∀ m, 1 ≤ m → m ≤ n → ¬ (t.tick + m ∈ [2000000, 4000000, 6000000, 8000000] ∧ fastDue s)) → dueAll s t n d = d
  | 0, _, _ => rfl
  | n + 1, h, hnot => by
    rw [dueAll, ← Int.natCast_succ, add_within h, dueReached_same _ (by omega), dueAll_same (by omega)]
    · exact fun m h1 hm => hnot m h1 (by omega)
    · exact hnot (n + 1) (by omega) le_rfl

/-- At most one fast instant lies within two ticks. -/
theorem dueAll_fast {k : Nat} (hk : k ∈ [2000000, 4000000, 6000000, 8000000]) (hfast : fastDue s) (hbefore : t.tick < k) :
    ∀ {n : Nat}, n ≤ 2 → t.tick + n < 10000000 → k ≤ t.tick + n → dueAll s t n d = { d with fast := some ⟨t.sec, k⟩ }
  | 0, _, _, hle => by omega
  | n + 1, hn, h, hle => by
    simp only [List.mem_cons, List.not_mem_nil, or_false] at hk
    rw [dueAll, ← Int.natCast_succ, add_within h]
    rcases Nat.lt_or_ge (t.tick + n) k with hlt | hge
    · obtain rfl : k = t.tick + (n + 1) := by omega
      rw [dueReached_fast _ (by omega) (by simpa using hk) hfast, dueAll_same _ (by omega)]
      intro m h1 hm hmem
      have hmem := hmem.1
      simp only [List.mem_cons, List.not_mem_nil, or_false] at hmem
      omega
    · rw [dueReached_same _ (by omega), dueAll_fast (by simpa using hk) hfast hbefore (by omega) (by omega) hge]
      simp only [List.mem_cons, List.not_mem_nil, or_false]
      omega

/-- A whole second reached makes its events due; the tick behind it adds nothing. -/
theorem dueAll_whole (h : s.held = false) (ht : t.tick < 10000000) : ∀ {n : Nat}, n ≤ 2 → 10000000 ≤ t.tick + n →
    dueAll s t n d = s.dueAt ⟨t.sec + 1#32, 0⟩ false
  | 0, _, hle => by omega
  | n + 1, hn, hle => by
    rw [dueAll, ← Int.natCast_succ, add_over ht hle hn]
    rcases Nat.lt_or_ge (t.tick + n) 10000000 with hlt | hge
    · rw [show t.tick + (n + 1) - 10000000 = 0 by omega, dueReached_whole _ h]
    · rw [dueReached_same _ (by omega), dueAll_whole h ht (by omega) hge]
      simp only [List.mem_cons, List.not_mem_nil, or_false]
      omega

end All

/-! ## What an edge counts -/

/-- The counts of an edge, for any clock, supply monitor, line and presence block they leave. -/
def counted (s : State) (k : HutClock) (r : RestartState) (l : LineInterface) (p : PresenceBlock) : State :=
  ((((s.withClock k).withRestart r).withLine l).withPresence p).withRing { s.ring with lappedNow := [] }

theorem countUpTo_eq (limit n : Nat) : countUpTo limit n = min limit (n + 1) := by
  unfold countUpTo
  split <;> omega

theorem restart_edge (r : RestartState) :
    r.edge = { r with
      supplyTicks := if r.supplyHold = true ∧ r.supplyLow = false then min 1000000 (r.supplyTicks + 1) else r.supplyTicks } := by
  unfold RestartState.edge
  rw [countUpTo_eq]
  split <;> rfl

theorem clock_edge (c : HutClock) :
    c.edge = { c with
      time := c.time.add (advanceOf (c.accumulator + c.trim)), accumulator := remainderOf (c.accumulator + c.trim)
      ppsAge := min 20000000 (c.ppsAge + 1) } := by
  have hcount := countUpTo_eq ppsAgeLimit c.ppsAge
  have hlimit : ppsAgeLimit = 20000000 := rfl
  rw [countUpTo] at hcount
  rw [HutClock.edge, hcount, hlimit]

theorem line_edge (l : LineInterface) (bit : Nat) :
    (l.activity = .waiting ∨ l.activity = .idle →
      l.edge bit = { l with quiet := min (32 * bit) (l.quiet + 1), joinCount := min (128 * bit) (l.joinCount + 1), sendEnded := false }) ∧
    (l.activity ≠ .waiting → l.activity ≠ .idle → l.edge bit = { l with sendEnded := false }) ∧
    (l.edge bit).standing = l.standing := by
  refine ⟨fun h => ?_, fun hw hi => ?_, ?_⟩
  · rw [LineInterface.edge, if_pos h, countUpTo_eq, countUpTo_eq]; rfl
  · rw [LineInterface.edge, if_neg (by tauto)]
  · unfold LineInterface.edge
    split <;> rfl

theorem debounceEdge_eq (i : DistInput) (s : State) :
    debounceEdge i s =
      if s.pins.dist i = s.presence.own.input i then s.presence.debounce i else min 500000 (s.presence.debounce i + 1) := by
  rw [debounceEdge, countUpTo_eq]; rfl

/-- The line and the presence block after the counts of an edge. -/
def edgedLine (s : State) : LineInterface := if s.running then s.line.edge s.bitTime else s.line

def edgedPresence (s : State) : PresenceBlock :=
  if s.running then { s.presence with debounce0 := debounceEdge .door s, debounce1 := debounceEdge .heater s } else s.presence

section Order

variable (s : State) (k : HutClock) (r : RestartState)

/-- The blocks' counts are written in any order. -/
theorem counted_running (l : LineInterface) (p : PresenceBlock) :
    ((((s.withClock k).withRestart r).withRing { s.ring with lappedNow := [] }).withLine l).withPresence p = counted s k r l p := rfl

theorem counted_idle :
    ((s.withClock k).withRestart r).withRing { s.ring with lappedNow := [] } = counted s k r s.line s.presence := rfl

theorem counted_due (l : LineInterface) (p : PresenceBlock) : (counted s k r l p).due = s.due := rfl

theorem counted_withDue (l : LineInterface) (p : PresenceBlock) (d : Due) :
    (counted s k r l p).withDue d =
      (((((s.withClock k).withRestart r).withLine l).withPresence p).withDue d).withRing { s.ring with lappedNow := [] } := rfl

theorem counted_straps (l : LineInterface) (p : PresenceBlock) : (counted s k r l p).straps = s.straps := rfl

theorem counted_assembler (l : LineInterface) (p : PresenceBlock) : (counted s k r l p).assembler = s.assembler := rfl

theorem counted_store (l : LineInterface) (p : PresenceBlock) : (counted s k r l p).store = s.store := rfl

theorem counted_engine (l : LineInterface) (p : PresenceBlock) : (counted s k r l p).engine = s.engine := rfl

end Order

theorem edgeCounts_eq (s : State) : edgeCounts s = counted s s.clock.edge s.restart.edge (edgedLine s) (edgedPresence s) := by
  rw [edgeCounts, edgedLine, edgedPresence]
  by_cases hrun : s.running = true
  · rw [if_pos hrun, if_pos hrun, if_pos hrun, counted_running]
  · rw [if_neg hrun, if_neg hrun, if_neg hrun, counted_idle]

theorem advanceOf_cases (a : Int) :
    (1000000000 ≤ a → advanceOf a = 2 ∧ remainderOf a = a - 1000000000) ∧
      (-1000000000 < a → a < 1000000000 → advanceOf a = 1 ∧ remainderOf a = a) ∧
      (a ≤ -1000000000 → advanceOf a = 0 ∧ remainderOf a = a + 1000000000) ∧ advanceOf a ≤ 2 := by
  have hlimit : accumulatorLimit = 1000000000 := rfl
  unfold advanceOf remainderOf
  rw [hlimit]
  refine ⟨fun h => ?_, fun h h' => ?_, fun h => ?_, ?_⟩
  · rw [if_pos h, if_pos h]; exact ⟨rfl, rfl⟩
  · rw [if_neg (by omega), if_neg (by omega), if_neg (by omega), if_neg (by omega)]; exact ⟨rfl, rfl⟩
  · rw [if_neg (by omega), if_pos h, if_neg (by omega), if_pos h]; exact ⟨rfl, rfl⟩
  · split_ifs <;> omega

theorem remainderOf_lt {a : Int} (h : a.natAbs < 2000000000) : (remainderOf a).natAbs < 1000000000 := by
  have hlimit : accumulatorLimit = 1000000000 := rfl
  unfold remainderOf
  rw [hlimit]
  split_ifs <;> omega

section Counted

variable (s : State) (k : HutClock) (p : PresenceBlock)

/-- The counts leave what the events of a whole second hang on. -/
theorem counted_same :
    (counted s k s.restart.edge (edgedLine s) p).held = s.held ∧
      (counted s k s.restart.edge (edgedLine s) p).running = s.running := by
  have hheld : (counted s k s.restart.edge (edgedLine s) p).held = s.held := by
    show (s.restart.edge.resetLow || s.restart.edge.supplyHold) = _
    rw [restart_edge]; rfl
  have hstanding : (edgedLine s).standing = s.line.standing := by
    unfold edgedLine
    split
    · exact (line_edge s.line s.bitTime).2.2
    · rfl
  refine ⟨hheld, ?_⟩
  rw [State.running, hheld]
  show (!s.held && decide ((edgedLine s).standing ≠ .strapFault)) = _
  rw [hstanding]; rfl

end Counted

/-- Settles O25. -/
theorem oscillatorEdgeCounts : Obligations.OscillatorEdgeCounts := by
  intro s hclock a
  obtain ⟨htime, hacc, htrim, hslew, -⟩ := hclock
  have htick : s.clock.time.tick < 10000000 := of_decide_eq_true htime
  obtain ⟨hfast, hone, hslow, hn⟩ := advanceOf_cases a
  obtain ⟨u, hu⟩ : ∃ u, u = counted s s.clock.edge s.restart.edge (edgedLine s) (edgedPresence s) := ⟨_, rfl⟩
  obtain ⟨hheld, hrunning⟩ := counted_same s s.clock.edge (edgedPresence s)
  rw [← hu] at hheld hrunning
  have hdue : u.due = s.due := by rw [hu, counted_due]
  have hexec : exec .oscillatorEdge s = .next (u.withDue (dueAll u s.clock.time (advanceOf a) s.due)) := by
    have htrimmed : s.clock.accumulator + s.clock.trim = a := rfl
    show Host.Outcome.next (oscillate s) = _
    rw [oscillate, edgeCounts_eq, ← hu, reachAll_eq, hdue, htrimmed]
  have hbound : a.natAbs < 2000000000 := by
    show (s.clock.accumulator + (s.clock.rateTrim + s.clock.slew)).natAbs < 2000000000
    omega
  have hfastDue : fastDue u ↔ s.running = true ∧ s.straps.role ≠ .clock ∧ s.assembler.cadence = .storm := by
    rw [fastDue, hrunning, hu, counted_straps, counted_assembler]
  refine ⟨advanceOf a, remainderOf a, edgedLine s, edgedPresence s, dueAll u s.clock.time (advanceOf a) s.due, ?_, hfast, hone, hslow,
    remainderOf_lt hbound, fun hrun => ?_, fun hrun => ⟨?_, fun hact => ?_, fun hw hi => ?_⟩, fun hh => ?_, fun hwithin hquiet => ?_,
    fun hwithin hstorm hrole hrun => ⟨fun k hk hbefore hreach => ?_, fun hnone => ?_⟩, fun hh hover => ?_⟩
  · rw [hexec, hu, counted_withDue, clock_edge, restart_edge]; rfl
  · rw [edgedLine, edgedPresence, if_neg (by simp [hrun]), if_neg (by simp [hrun])]; exact ⟨rfl, rfl⟩
  · rw [edgedPresence, if_pos hrun, debounceEdge_eq, debounceEdge_eq]; rfl
  · rw [edgedLine, if_pos hrun]; exact (line_edge s.line s.bitTime).1 hact
  · rw [edgedLine, if_pos hrun]; exact (line_edge s.line s.bitTime).2.1 hw hi
  · exact dueAll_held _ (hheld.trans hh) _
  · refine dueAll_same _ hwithin fun m _ _ h => ?_
    obtain ⟨hrun, hrole, hstorm⟩ := hfastDue.mp h.2
    rcases hquiet with hq | hq | hq
    · rw [hq] at hstorm; cases hstorm
    · exact hrole hq
    · rw [hq] at hrun; cases hrun
  · exact dueAll_fast _ hk (hfastDue.mpr ⟨hrun, hrole, hstorm⟩) hbefore hn hwithin hreach
  · refine dueAll_same _ hwithin fun m h1 hm h => ?_
    have hout := hnone _ h.1
    omega
  · rw [dueAll_whole _ (hheld.trans hh) htick hn hover, State.dueAt, hrunning, hu, counted_straps, counted_store,
      counted_engine, Bool.not_false,
      Bool.and_true]

end Sys2Proof.Oscillator

/-! A round end that steps (R44, Figure 3-2): the release of the whole assembly queue, and what the step leaves. -/

namespace Sys2Proof.Steps

open Sys2Proof.Machine
open Sys2Proof.Keeping (displaced stepNoted stepClock_eq waiting_ne_sending idle_ne_sending receiving_ne_sending)
open Sys2Proof.Holds (stormRecord_peers)
open Sys2Proof.StormJudgement (setOwnStorm_of_eq)
open Sys2Proof.Promotions (setOwnStorm_changed flagOffered)
open Sys2Proof.RingWrite (ringWrite_recordAt_producer)

/-! ## The release of the whole queue -/

theorem closedNow_closed (cause : CloseCause) (s : State) (e : Entry) : (closedNow cause s e).closed.isSome = true := by
  unfold closedNow
  split
  · rfl
  · next h => exact Option.isSome_iff_ne_none.mpr h

/-- All closed, all are released and none is left. -/
theorem releasable_closed {q : List Entry} (h : ∀ e ∈ q, e.closed.isSome = true) :
    (releasable q).length = q.length ∧ q.dropWhile (fun e => e.closed.isSome) = [] := by
  induction q with
  | nil => exact ⟨rfl, rfl⟩
  | cons e rest ih =>
    obtain ⟨c, hc⟩ := Option.isSome_iff_exists.mp (h e List.mem_cons_self)
    obtain ⟨hlen, hrest⟩ := ih fun x hx => h x (List.mem_cons_of_mem e hx)
    rw [releasable_cons_closed hc, List.length_cons, hlen, List.dropWhile_cons_of_pos (by simp [hc])]
    exact ⟨rfl, hrest⟩

/-- Every entry closed and released: in the field roles by the release, elsewhere for want of entries. -/
theorem closeAll_releases {m : State} (hinv : AssemblyInv m) :
    Releases (m.assembler.queue.map (closedNow .step m)) m (closeAndRelease (fun _ => true) .step m) := by
  obtain ⟨hlen, -, -, -, -, hempty⟩ := hinv
  have hnone (h : m.assembler.queue = []) :
      Releases (m.assembler.queue.map (closedNow .step m)) m (closeAndRelease (fun _ => true) .step m) := by
    rw [closeAndRelease, h]
    exact releases_nothing [] m rfl rfl
  cases hr : m.straps.role with
  | vector => exact closeAndRelease_releases (fun _ => true) .step m (.inl hr) hlen
  | scalar => exact closeAndRelease_releases (fun _ => true) .step m (.inr hr) hlen
  | thermal => exact hnone (hempty (.inl hr))
  | clock => exact hnone (hempty (.inr hr))

/-! ## The assembler's mark of a step -/

/-- The assembler once the step is marked (R119, R100). -/
def markedBy (landing : HutTime) (role : Role) (a : Assembler) : Assembler :=
  if role = .clock then a
  else
    { a with
      stepMark := true
      storm := { a.storm with onset := 0, quiet := 0, reference := none }
      cadence := if landing.isWhole then a.cadence else .base }

theorem markedBy_of_ne {role : Role} (h : role ≠ .clock) (landing : HutTime) (a : Assembler) :
    markedBy landing role a =
      { a with
        stepMark := true
        storm := { a.storm with onset := 0, quiet := 0, reference := none }
        cadence := if landing.isWhole then a.cadence else .base } := if_neg h

theorem markedBy_kept (landing : HutTime) (role : Role) (a : Assembler) :
    (markedBy landing role a).queue = a.queue ∧ (markedBy landing role a).lastOpened = a.lastOpened ∧
      (markedBy landing role a).storm.asserted = a.storm.asserted := by
  unfold markedBy
  split <;> exact ⟨rfl, rfl, rfl⟩

/-- Role C has no entries, so its queue is released too. -/
theorem assemblerStep_eq {m : State} (hinv : AssemblyInv m) (landing : HutTime) :
    assemblerStep landing m =
      (closeAndRelease (fun _ => true) .step m).withAssembler
        (markedBy landing m.straps.role (closeAndRelease (fun _ => true) .step m).assembler) := by
  obtain ⟨-, -, -, -, -, hempty⟩ := hinv
  unfold assemblerStep markedBy
  split
  · next hr =>
    have hq := hempty (.inr hr)
    have hsame : closeAndRelease (fun _ => true) .step m = m := by
      rw [closeAndRelease, hq]
      show m.withAssembler { m.assembler with queue := [] } = m
      rw [← hq]; rfl
    rw [hsame]; rfl
  · rfl

/-! ## The storm detector's judgments in a release -/

/-- The packet in flight stays in flight; a FLAG's may be marked as replaced. -/
def FlagMarked (a b : LineActivity) : Prop :=
  (∀ sd, a = .sending sd → ∃ r, b = .sending { sd with replaced := r } ∧
    (sd.place ≠ .flag ∨ sd.replaced = true → r = sd.replaced)) ∧
  ((∀ sd, a ≠ .sending sd) → b = a)

theorem FlagMarked.refl (a : LineActivity) : FlagMarked a a :=
  ⟨fun sd h => ⟨sd.replaced, h, fun _ => rfl⟩, fun _ => rfl⟩

theorem FlagMarked.trans {a b c : LineActivity} (h : FlagMarked a b) (h' : FlagMarked b c) : FlagMarked a c := by
  obtain ⟨hsend, hstill⟩ := h
  obtain ⟨hsend', hstill'⟩ := h'
  refine ⟨fun sd ha => ?_, fun hno => ?_⟩
  · obtain ⟨r, hb, hr⟩ := hsend sd ha
    obtain ⟨r', hc, hr'⟩ := hsend' _ hb
    refine ⟨r', hc, fun hkeep => ?_⟩
    have hfirst := hr hkeep
    rw [hr' (hkeep.imp_right fun hrep => hfirst.trans hrep)]
    exact hfirst
  · rw [hstill' (by rwa [hstill hno]), hstill hno]

theorem flagMarked_replacedAt (a : LineActivity) : FlagMarked a (a.replacedAt .flag) := by
  refine ⟨fun sd h => ?_, fun hno => ?_⟩
  · subst h
    by_cases hplace : sd.place = .flag
    · exact ⟨true, congrArg LineActivity.sending (if_pos hplace), fun h => (h.resolve_left (not_not.mpr hplace)).symm⟩
    · exact ⟨sd.replaced, congrArg LineActivity.sending (if_neg hplace), fun _ => rfl⟩
  · cases a with
    | sending sd => exact absurd rfl (hno sd)
    | waiting => rfl
    | idle => rfl
    | receiving c => rfl

theorem setOwnStorm_flagMarked {a : LineActivity} {s : State} (hact : s.line.activity = a) (b : Bool) :
    FlagMarked a (setOwnStorm b s).line.activity := by
  subst hact
  by_cases h : s.presence.own.storm = b
  · rw [setOwnStorm_of_eq h]; exact .refl _
  · rw [setOwnStorm_changed h, State.withLine_line, flagOffered]
    split
    · exact flagMarked_replacedAt _
    · exact .refl _

theorem stormRecord_flagMarked (slots : List (Option Int)) (s : State) :
    FlagMarked s.line.activity (stormRecord slots s).line.activity := by
  unfold stormRecord
  split
  · exact .refl _
  · dsimp only
    split
    · exact .refl _
    · split
      · exact .refl _
      · unfold handStorm
        split
        · refine setOwnStorm_flagMarked ?_ _
          rfl
        · exact .refl _

/-- Over the records of a release. -/
theorem stormFold_marks (l : List (Entry × Closed)) : ∀ s : State,
    FlagMarked s.line.activity (l.foldl (fun u p => stormRecord p.2.slots u) s).line.activity ∧
      (l.foldl (fun u p => stormRecord p.2.slots u) s).presence.peers = s.presence.peers := by
  induction l with
  | nil => exact fun s => ⟨.refl _, rfl⟩
  | cons p rest ih =>
    intro s
    obtain ⟨hmarks, hpeers⟩ := ih (stormRecord p.2.slots s)
    exact ⟨(stormRecord_flagMarked _ s).trans hmarks, hpeers.trans (stormRecord_peers _ s)⟩

/-- What a release leaves of the blocks that a step then asks about. -/
theorem releases_frame {q : List Entry} {m u : State} (h : Releases q m u) :
    (∃ a f obs, u.line = { m.line with activity := a, flagSlot := f, obsQueue := obs } ∧ FlagMarked m.line.activity a) ∧
      u.presence.peers = m.presence.peers ∧
      (u.clock = m.clock ∧ u.engine = m.engine ∧ u.port = m.port ∧ u.query = m.query ∧ u.straps = m.straps ∧
        u.restart = m.restart ∧ u.pins = m.pins ∧ u.pending = m.pending) ∧
      (u.store.active = m.store.active ∧ u.store.activeEdition = m.store.activeEdition ∧
        u.store.pendingSet = m.store.pendingSet) ∧
      u.assembler.queue = q.dropWhile (fun e => e.closed.isSome) ∧ u.assembler.cadence = m.assembler.cadence ∧
      u.ring.producer = m.ring.producer + BitVec.ofNat 16 (releasable q).length := by
  obtain ⟨hu, hproducer, -⟩ := h
  obtain ⟨a, f, hline⟩ := stormFold_frame ((releasable q).filter fun p => decide (p.1.kind = .base)) m
  obtain ⟨hmarks, hpeers⟩ := stormFold_marks ((releasable q).filter fun p => decide (p.1.kind = .base)) m
  have hoffered : ∃ obs, u.line =
      { (((releasable q).filter fun p => decide (p.1.kind = .base)).foldl (fun u p => stormRecord p.2.slots u) m).line with
        obsQueue := obs } := ⟨_, by rw [hu]; rfl⟩
  obtain ⟨obs, hoffered⟩ := hoffered
  rw [hline] at hmarks hoffered
  refine ⟨⟨a, f, obs, hoffered, hmarks⟩, ?_, ?_, ?_, ?_, ?_, hproducer⟩
  · rw [hu]; exact hpeers
  · rw [hu]; exact ⟨rfl, rfl, rfl, rfl, rfl, rfl, rfl, rfl⟩
  · rw [hu]; exact ⟨rfl, rfl, rfl⟩
  · rw [hu]; rfl
  · rw [hu]; rfl

/-! ## After the release -/

/-- The state after the STEP note, the new round and the query engine's move, from the state after the release. -/
def noted (c : Int) (a : Assembler) (d : Due) (u : State) : State :=
  ((beginRound (stepNoted c (u.withAssembler a))).withQuery ((stepNoted c (u.withAssembler a)).query.stepped c)).withDue d

/-- The ring's write and the assembler do not touch each other. -/
theorem ringWrite_withAssembler (x : RecordContent) (s : State) (a : Assembler) :
    ringWrite x (s.withAssembler a) = (ringWrite x s).withAssembler a := rfl

section Noted

variable (c : Int) (a : Assembler) (d : Due) (u : State)

theorem noted_restart : (noted c a d u).restart = u.restart := by
  simp [noted, beginRound, stepNoted, writeNote_spec]

theorem noted_line : (noted c a d u).line = u.line := by
  simp [noted, beginRound, stepNoted, writeNote_spec]

theorem noted_straps : (noted c a d u).straps = u.straps := by
  simp [noted, beginRound, stepNoted, writeNote_spec]

theorem noted_store : (noted c a d u).store = u.store := by
  simp [noted, beginRound, stepNoted, writeNote_spec]

theorem noted_assembler : (noted c a d u).assembler = a := by
  simp [noted, beginRound, stepNoted, writeNote_spec]

theorem noted_due : (noted c a d u).due = d := by
  simp [noted, beginRound, stepNoted, writeNote_spec]

theorem noted_clock : (noted c a d u).clock = { u.clock with ppsSamples := [] } := by
  simp [noted, beginRound, stepNoted, writeNote_spec]

theorem noted_engine : (noted c a d u).engine = { u.engine with roundBegin := u.clock.time } := by
  simp [noted, beginRound, stepNoted, writeNote_spec]

theorem noted_presence :
    (noted c a d u).presence = { u.presence with peers := u.presence.peers.map fun e => { e with sample := none } } := by
  simp [noted, beginRound, stepNoted, writeNote_spec]

theorem noted_port : (noted c a d u).port = u.port := by
  simp [noted, beginRound, stepNoted, writeNote_spec]

theorem noted_query : (noted c a d u).query = u.query.stepped c := by
  simp [noted, beginRound, stepNoted, writeNote_spec]

theorem noted_pins : (noted c a d u).pins = u.pins := by
  simp [noted, beginRound, stepNoted, writeNote_spec]

theorem noted_pending : (noted c a d u).pending = u.pending := by
  simp [noted, beginRound, stepNoted, writeNote_spec]

/-- The STEP note is the newest record. -/
theorem noted_ring : (noted c a d u).ring = (ringWrite (.note u.clock.time (.step c)) u).ring := by
  simp [noted, beginRound, stepNoted, writeNote_spec, ringWrite_withAssembler]

theorem noted_conditions :
    (noted c a d u).conditions = { (ringWrite (.note u.clock.time (.step c)) u).conditions with stepped := true } := by
  simp [noted, beginRound, stepNoted, writeNote_spec, ringWrite_withAssembler]

end Noted

/-- What a step that lands on a whole second makes due. -/
theorem dueAt_landing {s t : State} (hrun : t.running = true) (hstraps : t.straps = s.straps)
    (hpending : t.store.pendingSet = s.store.pendingSet) (landing : HutTime) :
    t.dueAt landing true =
      { second := landing
        mark := true
        roll := decide (landing.sec.toNat % 10 = 0)
        temp := decide (landing.sec.toNat % 10 = 0) && decide (s.straps.role ≠ .thermal)
        base := decide (s.straps.role ≠ .clock)
        consider := true
        promote := decide (s.store.pendingState = .scheduled)
        roundEnd := false
        fast := none } := by
  have hstate : t.store.pendingState = s.store.pendingState := by
    rw [CorrectionStore.pendingState, CorrectionStore.pendingState, hpending]
  rw [State.dueAt, hrun, hstraps, hstate]
  rfl

/-- A landing reaches a whole second, or nothing. -/
theorem reach_landing {landing : HutTime} {s : State} (hrun : s.running = true) (hdue : s.due = .clear)
    (hcadence : s.straps.role ≠ .clock → landing.tick ≠ 0 → s.assembler.cadence = .base) :
    reach landing true s = s.withDue (if landing.tick = 0 then s.dueAt landing true else .clear) := by
  have hheld : ¬ s.held = true := fun hh => by rw [State.running, hh] at hrun; cases hrun
  rw [reach, if_neg hheld]
  by_cases hwhole : landing.tick = 0
  · rw [if_pos (show landing.isWhole = true from decide_eq_true hwhole), if_pos hwhole]
  · rw [if_neg (show ¬ landing.isWhole = true from fun hw => hwhole (of_decide_eq_true hw)), if_neg hwhole, ← hdue, if_neg]
    · rfl
    · rintro ⟨-, -, hrole, hstorm⟩
      rw [hcadence hrole hwhole] at hstorm; cases hstorm

/-- The record just written stands before P. -/
theorem ringWrite_producer_pred (x : RecordContent) (s : State) : (ringWrite x s).ring.producer - 1#16 = s.ring.producer := by
  rw [ringWrite_ring]
  exact BitVec.add_sub_cancel _ _

/-- Settles O32. -/
theorem roundEndWithAStep : Obligations.RoundEndWithAStep := by
  intro s hrun hdue hinv c landing moved horder
  have hstep : roundOrder s = .step c := by
    have hlimit : stepThreshold = 10000 := rfl
    rcases horder with ⟨hunset, hc⟩ | ⟨hset, hcand, hc⟩
    · simp only [roundOrder, hunset]; exact if_neg hc
    · simp only [roundOrder, hset]
      rw [if_neg hcand]
      refine if_pos ?_
      show stepThreshold ≤ (c.natAbs : Int)
      omega
  have hmoved : displaced c (roundWrites s) = moved := rfl
  have hlanding : (roundWrites s).clock.time.add c = landing := rfl
  have hexec : exec .roundEnd s = .next (stepClock c (roundWrites s)) := by
    show Host.Outcome.next (if s.running = true ∧ s.due.roundEnd = true then takeRoundEnd s else s) = _
    rw [if_pos ⟨hrun, hdue⟩, takeRoundEnd, hstep]
  have hminv : AssemblyInv moved := hinv
  have hclock : moved.clock =
      { s.clock with
        time := landing, accumulator := 0, slew := 0, timeState := .set, grade := roundGrade s
        ownMark := none, ppsSamples := [] } := rfl
  have hengine : moved.engine = { s.engine with lastRoundEnd := some s.due.second.sec, lastCorrection := c } := rfl
  have hpeers : moved.presence.peers = s.presence.peers.map (Peer.stepped c) := rfl
  have hkept : moved.port = { s.port with openSet := none, history := [] } ∧ moved.query = s.query ∧ moved.straps = s.straps ∧
      moved.restart = s.restart ∧ moved.pins = s.pins ∧ moved.pending = s.pending ∧ moved.store = s.store ∧
      moved.assembler = s.assembler ∧ moved.ring = s.ring ∧
      moved.line = { s.line with activity := s.line.activity.withoutCapture } := ⟨rfl, rfl, rfl, rfl, rfl, rfl, rfl, rfl, rfl, rfl⟩
  clear_value moved landing
  obtain ⟨hport, hquery, hstraps, hrestart, hpins, hpending, hstore, hassembler, hring, hline⟩ := hkept
  have hrel := closeAll_releases hminv
  have hassemble := assemblerStep_eq hminv landing
  generalize closeAndRelease (fun _ => true) .step moved = u at hrel hassemble
  have hall : ∀ e ∈ moved.assembler.queue.map (closedNow .step moved), e.closed.isSome = true := fun e he => by
    obtain ⟨x, -, rfl⟩ := List.mem_map.mp he
    exact closedNow_closed .step moved x
  obtain ⟨hcount, hnoneLeft⟩ := releasable_closed hall
  obtain ⟨⟨a, f, obs, huline, hmarks⟩, hupeers, ⟨huclock, huengine, huport, huquery, hustraps, hurestart, hupins, hupending⟩,
    ⟨hactive, hedition, hpendingSet⟩, huqueue, hucadence, huproducer⟩ := releases_frame hrel
  rw [hnoneLeft] at huqueue
  rw [hcount, List.length_map, hassembler, hring] at huproducer
  rw [hline] at huline hmarks
  have hutime : u.clock.time = landing := by rw [huclock, hclock]
  obtain ⟨hqueue, hlast, hasserted⟩ := markedBy_kept landing s.straps.role u.assembler
  have hcadence : s.straps.role ≠ .clock → landing.tick ≠ 0 → (markedBy landing s.straps.role u.assembler).cadence = .base :=
    fun hrole hpart => by
      rw [markedBy_of_ne hrole]
      exact if_neg fun hw => hpart (of_decide_eq_true hw)
  have hrunning : (noted c (markedBy landing s.straps.role u.assembler) .clear u).running = true := by
    have hstanding : u.line.standing = s.line.standing := by rw [huline]
    rw [State.running, State.held, noted_restart, noted_line, hurestart, hrestart, hstanding]
    exact hrun
  have hstepped : stepClock c (roundWrites s) =
      noted c (markedBy landing s.straps.role u.assembler)
        (if landing.tick = 0 then
          (noted c (markedBy landing s.straps.role u.assembler) .clear u).dueAt landing true else .clear) u := by
    rw [stepClock_eq, hmoved, hlanding, hassemble, hstraps]
    refine (reach_landing hrunning rfl fun hrole hpart => hcadence ?_ hpart).trans rfl
    rwa [noted_straps, hustraps, hstraps] at hrole
  have hdueAt := dueAt_landing (s := s) hrunning (by rw [noted_straps, hustraps, hstraps])
    (by rw [noted_store, hpendingSet, hstore]) landing
  have hrelS : Releases (s.assembler.queue.map (closedNow .step moved)) moved u := hassembler ▸ hrel
  refine ⟨_, hexec.trans (congrArg _ hstepped), ?_, ?_, ?_, ?_, ?_, ?_, ?_, ?_, ?_, ⟨u, hrelS, ?_, ?_, ?_, ?_, ?_, ?_, ?_⟩,
    fun hrole => ?_, fun hpart => ?_, fun hwhole => ?_, fun hact => ?_, fun hact => ?_, fun x hact => ?_, fun sd hact => ?_, ?_⟩
  · rw [noted_clock, huclock, hclock]
  · rw [noted_engine, huengine, hengine, hutime]
  · rw [noted_presence, hupeers, hpeers, List.map_map]; rfl
  · rw [noted_port, huport, hport]
  · rw [noted_query, huquery, hquery]; rfl
  · rw [noted_conditions]
  · rw [noted_ring, hutime, ringWrite_producer_pred, ringWrite_recordAt_producer, State.recordOf, hustraps, hstraps]
  · rw [noted_ring, ringWrite_ring]
    show u.ring.producer + 1#16 = _
    rw [huproducer, BitVec.ofNat_add, BitVec.add_assoc]
  · rw [noted_assembler, hqueue, huqueue]
  · rw [noted_ring, hutime]
  · rw [noted_conditions, hutime]
  · rw [noted_line]
  · rw [noted_store]
  · rw [noted_presence]
  · rw [noted_assembler, hlast]
  · rw [noted_assembler, hasserted]
  · rw [noted_assembler, markedBy_of_ne hrole, hucadence, hassembler]
    refine ⟨rfl, rfl, rfl, rfl, ?_⟩
    exact if_congr decide_eq_true_iff rfl rfl
  · rw [noted_due, if_neg hpart]
  · rw [noted_due, if_pos hwhole, hdueAt]
  · rw [noted_line, huline]
    rw [hact] at hmarks
    exact hmarks.2 waiting_ne_sending
  · rw [noted_line, huline]
    rw [hact] at hmarks
    exact hmarks.2 idle_ne_sending
  · rw [noted_line, huline]
    rw [hact] at hmarks
    exact hmarks.2 (receiving_ne_sending none)
  · rw [noted_line, huline]
    rw [hact] at hmarks
    exact hmarks.1 _ rfl
  · rw [noted_line, noted_store, noted_straps, noted_restart, noted_pins, noted_pending, huline, hactive, hedition, hpendingSet,
      hustraps, hurestart, hupins, hupending, hstore, hstraps, hrestart, hpins, hpending]
    exact ⟨rfl, rfl, rfl, rfl, rfl, rfl, rfl, rfl, rfl, rfl, rfl, rfl, rfl⟩

end Sys2Proof.Steps
